-- ==== Sys2Proof/Word.lean ====
section
/-! DEFINITION. The machine's data types: the cell, and the fixed-size arrays of cells (00_scope.md R9, R11, R15). -/

namespace Sys2Proof

/-- A cell, an unsigned 8-bit value; bit `i` has weight `2^i` (R9). -/
abbrev Cell := BitVec 8

/-- Sixteen cells in row-major order: the State `IS`, a tweakey lane, the ciphertext register, the
port `pt_in` (R11, R20, R22, R24, R25). -/
abbrev Block := Vector Cell 16

/-- Forty-eight cells, the port `tk_in`: three lanes one after another (R25, R89). -/
abbrev TweakeyBlock := Vector Cell 48

/-- The cell at `(row, col)`, index `4*row + col` (R11). -/
def cellAt (b : Block) (row col : Fin 4) : Cell := b[4 * row.val + col.val]

/-- The block whose cell at `(row, col)` is `f row col` (R11). -/
def ofRows (f : Fin 4 → Fin 4 → Cell) : Block :=
  Vector.ofFn fun i => f ⟨i.val / 4, by omega⟩ ⟨i.val % 4, by omega⟩

/-- Cell-by-cell exclusive or of two blocks. -/
def xorBlock (a b : Block) : Block := Vector.ofFn fun i => a[i] ^^^ b[i]

end Sys2Proof
end

