-- ==== Sys2Proof/Config.lean ====
section
/-! DEFINITION. What is fixed for the machine, and the free values (00_scope.md R8; notes/assumptions/1.md).

Most parameters of R8 are widths, and stand in the types: `Cell` is 8 bits, `Block` is 16 cells,
`RND` is 6 bits, `STEP` 3 bits, a code 4 bits, a round constant 6 bits, a round index `Fin 56`.
The contents of the four tables are in Machine/Tables.lean. -/

namespace Sys2Proof.Config

/-- `C2`, the constant XORed into cell 8 in every round (R8, R85). -/
def c2 : Cell := 0x02

/-- `KEYED_CELLS` and `LFSR_CELLS`: the cells `0 .. 7`, the top two rows (R8, R86). -/
abbrev topCells : Nat := 8

/- DESIGN CHOICE (notes/assumptions/1.md): after power-on the datapath registers "hold no value" and
"a model must not give [them] zero or any other number" (10_state.md R35). Each register therefore
starts at a value of its own that nothing in Lean can evaluate: a free value. -/

/-- What `IS` holds before the first `LOAD`. -/
opaque unwrittenIS : Block
/-- What `TK1` holds before the first `LOAD`. -/
opaque unwrittenTK1 : Block
/-- What `TK2` holds before the first `LOAD`. -/
opaque unwrittenTK2 : Block
/-- What `TK3` holds before the first `LOAD`. -/
opaque unwrittenTK3 : Block
/-- What `CT` holds before the first `FIN`. -/
opaque unwrittenCT : Block

end Sys2Proof.Config
end

