-- ==== Sys2Proof/Syntax.lean ====
section
/-! DEFINITION. The eleven micro-operations, and the pseudo-operations (30_encoding.md R81, R82, R92). -/

namespace Sys2Proof

/-- The micro-operations of R81, one constructor per row of the opcode table. Every operand is
implicit (R82), so no constructor has a field. -/
inductive Instr where
  /-- `0x0` IDLE, wait (R142). -/
  | idle
  /-- `0x1` LOAD, copy the plaintext and the tweakey in (R143). -/
  | load
  /-- `0x2` SC, SubCells (R101). -/
  | sc
  /-- `0x3` AC, AddConstants (R102). -/
  | ac
  /-- `0x4` ARTX, the XOR of AddRoundTweakey (R103). -/
  | artx
  /-- `0x5` TKP, permute the lanes (R121). -/
  | tkp
  /-- `0x6` LF2, feedback shift of TK2 (R122). -/
  | lf2
  /-- `0x7` LF3, feedback shift of TK3 (R123). -/
  | lf3
  /-- `0x8` SR, ShiftRows (R104). -/
  | sr
  /-- `0x9` MC, MixColumns (R105). -/
  | mc
  /-- `0xA` FIN, read-out (R146). -/
  | fin
deriving DecidableEq, Repr

/-- The pseudo-operations of R92: names for fixed sequences of micro-operations. They have no code
and the sequencer never issues one. -/
inductive PseudoOp where
  /-- `TKADV`, the lane advance. -/
  | tkadv
  /-- `ART`, the whole contract AddRoundTweakey. -/
  | art
  /-- `ROUND r`, the round function with `RND = r`. -/
  | round (r : BitVec 6)
  /-- `ENCRYPT`, a whole run. -/
  | encrypt
deriving DecidableEq, Repr

end Sys2Proof
end

