-- ==== Sys2Proof/Machine/State.lean ====
section
/-! DEFINITION. The state of the engine and of what the host drives, its value after reset, and the reasons a step can
stop (10_state.md R20 to R36). -/

namespace Sys2Proof.Machine

/-- `PHASE`, 2 bits (R27). No value is reserved; the encoding is `Phase.code` of Machine/Sequencer.lean. -/
inductive Phase where
  /-- `IDLE`: nothing loaded since reset. -/
  | idle
  /-- `RUN`: the 56 rounds are in progress. -/
  | run
  /-- `FIN`: the rounds are over, the ciphertext is about to be written. -/
  | fin
  /-- `DONE`: the ciphertext is in `CT`. -/
  | done
deriving DecidableEq, Repr

/-- The sequencer position `(PHASE, RND, STEP)`, which plays the part of a program counter (R14, R30). -/
structure Position where
  /-- `PHASE` (R27). -/
  phase : Phase
  /-- `RND`, 6 bits, the round index; legal values are 0 to 55 (R28). -/
  rnd : BitVec 6
  /-- `STEP`, 3 bits, the place inside a round; all values are legal (R29). -/
  stp : BitVec 3
deriving DecidableEq, Repr

/-- The levels on the input ports during one step (R25). -/
structure Inputs where
  rst : Bool
  start : Bool
  /-- `pt_in`, the 16 plaintext bytes. -/
  ptIn : Block
  /-- `tk_in`, the 48 tweakey bytes. -/
  tkIn : TweakeyBlock
deriving DecidableEq, Repr

/-- The state. The first six fields are the eight registers of the table at the head of 10_state.md
(`pos` holds three of them), and R32 says there is no other. The last two are the model's own: they
hold the other agent, the host (R17), as plain data. -/
structure State where
  /-- `IS`, the cipher's internal state (R20). -/
  is : Block
  /-- `TK1`, the first tweakey lane (R22). -/
  tk1 : Block
  /-- `TK2`, the second tweakey lane (R22). -/
  tk2 : Block
  /-- `TK3`, the third tweakey lane (R22). -/
  tk3 : Block
  /-- `CT`, the output register (R24). -/
  ct : Block
  /-- `PHASE`, `RND`, `STEP` (R27 to R30). -/
  pos : Position
  /-- The input ports during the coming step (R25). -/
  inputs : Inputs
  /-- What the host drives on the ports in the steps after the coming one, next step first; when the
  list is used up the ports keep their levels (DESIGN CHOICE, notes/assumptions/2.md). -/
  schedule : List Inputs
deriving DecidableEq, Repr

/-- Why the machine stops with a fault. There is no constructor: "No micro-operation raises an
exception, in any state, on any input" (60_exceptions.md R170), and the one model fault the spec
names, reading a register nothing has written (R35), is not raised because every register of the
model holds a value (notes/assumptions/1.md). -/
inductive Fault where
deriving DecidableEq, Repr

/-- Why the machine gives a request no meaning. -/
inductive Refusal where
  /-- An instruction whose arm has no meaning yet; raised by `exec` alone. Safe. (No arm uses it.) -/
  | notModelled (mnemonic : String)
  /-- `AC` with `RND >= 56`, raised by the meaning of `AC` (R172). Safe: no position the sequencer
  reaches has such an `RND`, and the spec says to refuse. -/
  | roundIndexOutOfRange (rnd : BitVec 6)
  /-- A reserved micro-operation code, raised by `step` (R87, R173). Safe: the sequencer never
  produces one. -/
  | reservedCode (op : BitVec 4)
  /-- The position `(RUN, RND, 7)` with `RND >= 56`, to which R149 gives no successor; raised by
  `step` (notes/assumptions/3.md). Safe: the sequencer never reaches it. -/
  | noSuccessor (pos : Position)
  /-- A host read of `ct_out` while `done = 0`, raised by `ctOut` of Machine/Flags.lean (R26, R209;
  93_implementation_defined.md U3). Safe: the value is unspecified. -/
  | ctOutUnspecified
deriving DecidableEq, Repr

/-- What a step answers. -/
abbrev Result := Host.Outcome State Fault Refusal

/-- The ports with every level low and every byte zero (DESIGN CHOICE, notes/assumptions/2.md). -/
def Inputs.quiet : Inputs :=
  { rst := false, start := false, ptIn := Vector.replicate 16 0, tkIn := Vector.replicate 48 0 }

/-- `(IDLE, 0, 0)`, the position after a step with `rst = 1` (R34). -/
def Position.idle0 : Position := { phase := .idle, rnd := 0, stp := 0 }

/-- The machine right after its first reset step: the position of R34, and datapath registers that
hold their unwritten values (R34, R35; notes/assumptions/1.md). Power-on before that step is any
state (DEDUCED, notes/assumptions/9.md). -/
def State.reset : State :=
  { is := Config.unwrittenIS
    tk1 := Config.unwrittenTK1
    tk2 := Config.unwrittenTK2
    tk3 := Config.unwrittenTK3
    ct := Config.unwrittenCT
    pos := Position.idle0
    inputs := Inputs.quiet
    schedule := [] }

end Sys2Proof.Machine
end

