-- ==== Sys2Proof/Machine/Tables.lean ====
section
/-! DEFINITION. The four read-only tables and the two recipes that check them (20_memory.md R50 to R56). They are
constants of the step function, not state (00_scope.md R18). The entries of S8, RC and PT are as the spec prints them,
UNVERIFIED by its source (notes/assumptions/6.md). -/

namespace Sys2Proof.Machine

/-- `S8` as R51 prints it: row `0xH_`, column `L`. -/
def s8Rows : Vector (Vector Cell 16) 16 := #v[
  #v[0x65, 0x4C, 0x6A, 0x42, 0x4B, 0x63, 0x43, 0x6B, 0x55, 0x75, 0x5A, 0x7A, 0x53, 0x73, 0x5B, 0x7B],
  #v[0x35, 0x8C, 0x3A, 0x81, 0x89, 0x33, 0x80, 0x3B, 0x95, 0x25, 0x98, 0x2A, 0x90, 0x23, 0x99, 0x2B],
  #v[0xE5, 0xCC, 0xE8, 0xC1, 0xC9, 0xE0, 0xC0, 0xE9, 0xD5, 0xF5, 0xD8, 0xF8, 0xD0, 0xF0, 0xD9, 0xF9],
  #v[0xA5, 0x1C, 0xA8, 0x12, 0x1B, 0xA0, 0x13, 0xA9, 0x05, 0xB5, 0x0A, 0xB8, 0x03, 0xB0, 0x0B, 0xB9],
  #v[0x32, 0x88, 0x3C, 0x85, 0x8D, 0x34, 0x84, 0x3D, 0x91, 0x22, 0x9C, 0x2C, 0x94, 0x24, 0x9D, 0x2D],
  #v[0x62, 0x4A, 0x6C, 0x45, 0x4D, 0x64, 0x44, 0x6D, 0x52, 0x72, 0x5C, 0x7C, 0x54, 0x74, 0x5D, 0x7D],
  #v[0xA1, 0x1A, 0xAC, 0x15, 0x1D, 0xA4, 0x14, 0xAD, 0x02, 0xB1, 0x0C, 0xBC, 0x04, 0xB4, 0x0D, 0xBD],
  #v[0xE1, 0xC8, 0xEC, 0xC5, 0xCD, 0xE4, 0xC4, 0xED, 0xD1, 0xF1, 0xDC, 0xFC, 0xD4, 0xF4, 0xDD, 0xFD],
  #v[0x36, 0x8E, 0x38, 0x82, 0x8B, 0x30, 0x83, 0x39, 0x96, 0x26, 0x9A, 0x28, 0x93, 0x20, 0x9B, 0x29],
  #v[0x66, 0x4E, 0x68, 0x41, 0x49, 0x60, 0x40, 0x69, 0x56, 0x76, 0x58, 0x78, 0x50, 0x70, 0x59, 0x79],
  #v[0xA6, 0x1E, 0xAA, 0x11, 0x19, 0xA3, 0x10, 0xAB, 0x06, 0xB6, 0x08, 0xBA, 0x00, 0xB3, 0x09, 0xBB],
  #v[0xE6, 0xCE, 0xEA, 0xC2, 0xCB, 0xE3, 0xC3, 0xEB, 0xD6, 0xF6, 0xDA, 0xFA, 0xD3, 0xF3, 0xDB, 0xFB],
  #v[0x31, 0x8A, 0x3E, 0x86, 0x8F, 0x37, 0x87, 0x3F, 0x92, 0x21, 0x9E, 0x2E, 0x97, 0x27, 0x9F, 0x2F],
  #v[0x61, 0x48, 0x6E, 0x46, 0x4F, 0x67, 0x47, 0x6F, 0x51, 0x71, 0x5E, 0x7E, 0x57, 0x77, 0x5F, 0x7F],
  #v[0xA2, 0x18, 0xAE, 0x16, 0x1F, 0xA7, 0x17, 0xAF, 0x01, 0xB2, 0x0E, 0xBE, 0x07, 0xB7, 0x0F, 0xBF],
  #v[0xE2, 0xCA, 0xEE, 0xC6, 0xCF, 0xE7, 0xC7, 0xEF, 0xD2, 0xF2, 0xDE, 0xFE, 0xD7, 0xF7, 0xDF, 0xFF]]

/-- The S-box, read at row `x[7:4]`, column `x[3:0]` (R51). -/
def s8 (x : Cell) : Cell :=
  (s8Rows[(x.extractLsb' 4 4).toNat]'(BitVec.isLt _))[(x.extractLsb' 0 4).toNat]'(BitVec.isLt _)

/-- The 62 round constants of R53, ten a line. Entries 56 to 61 are never read (R63). -/
def rc : Vector (BitVec 6) 62 := #v[
  0x01, 0x03, 0x07, 0x0F, 0x1F, 0x3E, 0x3D, 0x3B, 0x37, 0x2F,
  0x1E, 0x3C, 0x39, 0x33, 0x27, 0x0E, 0x1D, 0x3A, 0x35, 0x2B,
  0x16, 0x2C, 0x18, 0x30, 0x21, 0x02, 0x05, 0x0B, 0x17, 0x2E,
  0x1C, 0x38, 0x31, 0x23, 0x06, 0x0D, 0x1B, 0x36, 0x2D, 0x1A,
  0x34, 0x29, 0x12, 0x24, 0x08, 0x11, 0x22, 0x04, 0x09, 0x13,
  0x26, 0x0C, 0x19, 0x32, 0x25, 0x0A, 0x15, 0x2A, 0x14, 0x28,
  0x10, 0x20]

/-- `PT`, the lane permutation: the index that new cell `i` is taken from (R55). -/
def pt : Vector (Fin 16) 16 := #v[9, 15, 8, 13, 10, 14, 12, 11, 0, 1, 2, 3, 4, 5, 6, 7]

/-- `SRI`, the index that ShiftRows takes new cell `i` from (40_round_function.md R104). -/
def sri : Vector (Fin 16) 16 := #v[0, 1, 2, 3, 7, 4, 5, 6, 10, 11, 8, 9, 13, 14, 15, 12]

/-- `M`, the Mix Matrix (R56). -/
def mixMatrix : Vector (Vector Bool 4) 4 := #v[
  #v[true,  false, true,  true],
  #v[true,  false, false, false],
  #v[false, true,  true,  false],
  #v[true,  false, true,  false]]

/-- A cell from its bits, `x7` first. -/
def cellOfBits (x7 x6 x5 x4 x3 x2 x1 x0 : Bool) : Cell :=
  BitVec.ofBool x7 ++ BitVec.ofBool x6 ++ BitVec.ofBool x5 ++ BitVec.ofBool x4 ++
  BitVec.ofBool x3 ++ BitVec.ofBool x2 ++ BitVec.ofBool x1 ++ BitVec.ofBool x0

/-- The two updates that open each repetition of the recipe of R52 (b). -/
def s8RecipeMix (x : Cell) : Cell :=
  cellOfBits x[7] x[6] x[5] (x[4] ^^ !(x[7] || x[6])) x[3] x[2] x[1] (x[0] ^^ !(x[3] || x[2]))

/-- The bit permutation of the first three repetitions of R52 (b). -/
def s8RecipePermute (x : Cell) : Cell :=
  cellOfBits x[2] x[1] x[7] x[6] x[4] x[0] x[3] x[5]

/-- The swap of `x1` and `x2` in the fourth repetition of R52 (b). -/
def s8RecipeSwap (x : Cell) : Cell :=
  cellOfBits x[7] x[6] x[5] x[4] x[3] x[1] x[2] x[0]

/-- The bit-level recipe of R52 (b). The hardware holds the table `s8`; this is its check. -/
def s8Recipe (x : Cell) : Cell :=
  let once := fun y => s8RecipePermute (s8RecipeMix y)
  s8RecipeSwap (s8RecipeMix (once (once (once x))))

/-- One update of the shift register of R54. -/
def rcUpdate (x : BitVec 6) : BitVec 6 :=
  (x <<< 1) ||| (BitVec.ofBool (x[5] ^^ x[4] ^^ true)).setWidth 6

/-- The shift register's state after `n` updates from zero (R54); `rc[r]` is the state after `r + 1`. -/
def rcState : Nat → BitVec 6
  | 0 => 0
  | n + 1 => rcUpdate (rcState n)

end Sys2Proof.Machine
end

