-- ==== Sys2Proof/Machine/Ops.lean ====
section
/-! DEFINITION. The named operations on blocks and lanes, the port drive and the reset step.

The engine has no read-write memory and no address space but its tables and ports (20_memory.md R50, R69), so there is
no memory operation here. It takes no exception and has no return from one (60_exceptions.md R170, R176, R177): the one
event that diverts a run is a step with `rst = 1`, and `applyReset` is that operation. -/

namespace Sys2Proof.Machine

/-! ## Block operations -/

/-- New cell `i` is old cell `t[i]`: a gather (R104, R121). -/
def gather (t : Vector (Fin 16) 16) (b : Block) : Block := Vector.ofFn fun i => b[t[i]]

/-- `f` on the cells of the top two rows, `0 .. 7`; the others are unchanged (R86). -/
def onTop (f : Cell → Cell) (b : Block) : Block :=
  Vector.ofFn fun i => if i.val < Config.topCells then f b[i] else b[i]

/-- SubCells on a block (R101). -/
def subCells (b : Block) : Block := Vector.ofFn fun i => s8 b[i]

/-- `c0 = zext_8(rc[3:0])` (30_encoding.md R85). -/
def rcC0 (k : BitVec 6) : Cell := (k.extractLsb' 0 4).setWidth 8

/-- `c1 = zext_8(rc[5:4])`, two bits (R85; 90_conflicts.md C1, C2). -/
def rcC1 (k : BitVec 6) : Cell := (k.extractLsb' 4 2).setWidth 8

/-- AddConstants on a block for the round constant `k` (R102). -/
def addConstant (k : BitVec 6) (b : Block) : Block :=
  Vector.ofFn fun i =>
    if i.val = 0 then b[i] ^^^ rcC0 k
    else if i.val = 4 then b[i] ^^^ rcC1 k
    else if i.val = 8 then b[i] ^^^ Config.c2
    else b[i]

/-- AddConstants in round `r` (R102). -/
def addConstants (r : Fin 56) (b : Block) : Block := addConstant rc[r.val] b

/-- The XOR of the three lanes into cells `0 .. 7` (R103). -/
def addRoundTweakey (tk1 tk2 tk3 b : Block) : Block :=
  Vector.ofFn fun j =>
    if j.val < Config.topCells then b[j] ^^^ tk1[j] ^^^ tk2[j] ^^^ tk3[j] else b[j]

/-- ShiftRows on a block (R104). -/
def shiftRows (b : Block) : Block := gather sri b

/-- MixColumns on a block, by the closed form (R105, decision D17). -/
def mixColumns (b : Block) : Block :=
  ofRows fun row c =>
    let r0 := cellAt b 0 c
    let r1 := cellAt b 1 c
    let r2 := cellAt b 2 c
    let r3 := cellAt b 3 c
    match row with
    | 0 => r0 ^^^ r2 ^^^ r3
    | 1 => r0
    | 2 => r1 ^^^ r2
    | 3 => r0 ^^^ r2

/-- The product of a matrix bit and a cell (00_scope.md R15 (c)). -/
def mixProduct (m : Bool) (x : Cell) : Cell := if m then x else 0

/-- The generic form of MixColumns, with the matrix `M` (R106). -/
def mixColumnsMatrix (b : Block) : Block :=
  ofRows fun row c =>
    mixProduct mixMatrix[row][0] (cellAt b 0 c) ^^^ mixProduct mixMatrix[row][1] (cellAt b 1 c) ^^^
    mixProduct mixMatrix[row][2] (cellAt b 2 c) ^^^ mixProduct mixMatrix[row][3] (cellAt b 3 c)

/-- The inverse of MixColumns that R105 prints among its corner cases; the engine has no such
operation. -/
def unmixColumns (b : Block) : Block :=
  ofRows fun row c =>
    let r2 := cellAt b 1 c ^^^ cellAt b 3 c
    match row with
    | 0 => cellAt b 1 c
    | 1 => cellAt b 2 c ^^^ r2
    | 2 => r2
    | 3 => cellAt b 0 c ^^^ cellAt b 3 c

/-! ## Lane operations -/

/-- `lf2`: left shift by one, `x[7] ^ x[5]` into bit 0 (41_tweakey_schedule.md R124). -/
def lf2Cell (x : Cell) : Cell := (x <<< 1) ||| (BitVec.ofBool (x[7] ^^ x[5])).setWidth 8

/-- `lf3`: logical right shift by one, `x[0] ^ x[6]` into bit 7 (R124). -/
def lf3Cell (x : Cell) : Cell := (x >>> 1) ||| ((BitVec.ofBool (x[0] ^^ x[6])).setWidth 8 <<< 7)

/-- The lane permutation (R121). -/
def permuteLane (l : Block) : Block := gather pt l

/-- `f` applied `n` times; `f^28` of R128. -/
def iterate {α : Type} (f : α → α) : Nat → α → α
  | 0, x => x
  | n + 1, x => f (iterate f n x)

/-- The lane held in bytes `16*k .. 16*k + 15` of the tweakey (42_driver.md R143; 20_memory.md R58). -/
def laneSlice (k : Fin 3) (t : TweakeyBlock) : Block := Vector.ofFn fun i => t[16 * k.val + i.val]

/-! ## Whole-state operations -/

/-- The effect of a step with `rst = 1`: the position becomes `(IDLE, 0, 0)` and every datapath
register is unchanged (42_driver.md R141; 70_reset_and_hazards.md R200, R201). -/
def applyReset (s : State) : State := { s with pos := Position.idle0 }

/-- The host drives the ports for the next step: the next entry of its schedule, or the same levels
again when the schedule is used up (notes/assumptions/2.md). -/
def drive (s : State) : State :=
  match s.schedule with
  | [] => s
  | i :: rest => { s with inputs := i, schedule := rest }

/-- The ports during the step `n` steps after the coming one. -/
def inputsAfter : Nat → State → Inputs
  | 0, s => s.inputs
  | n + 1, s => inputsAfter n (drive s)

/-- Continue with `f` when a result is a next state. -/
def andThen (r : Result) (f : State → Result) : Result :=
  match r with
  | .next s => f s
  | .fault e => .fault e
  | .refused e => .refused e

end Sys2Proof.Machine
end

