-- ==== Sys2Proof/Machine/Driver.lean ====
section
/-! DEFINITION. The driver's three micro-operations: IDLE, LOAD, FIN (42_driver.md R142, R143, R146). The sequencer
registers change in Machine/Step.lean, after the micro-operation and never in it (R82, R141). -/

namespace Sys2Proof.Machine

/-- `IDLE`: every register keeps its value (R142). -/
def execIdle (s : State) : Result := .next s

/-- `LOAD`: the plaintext into `IS`, the three slices of the tweakey into the lanes, in one atomic
copy (R143). -/
def execLoad (s : State) : Result :=
  .next { s with
    is := s.inputs.ptIn
    tk1 := laneSlice 0 s.inputs.tkIn
    tk2 := laneSlice 1 s.inputs.tkIn
    tk3 := laneSlice 2 s.inputs.tkIn }

/-- `FIN`: `IS` into `CT`; nothing is cleared (R146). -/
def execFin (s : State) : Result := .next { s with ct := s.is }

end Sys2Proof.Machine
end

