-- ==== Sys2Proof/Machine/RoundFunction.lean ====
section
/-! DEFINITION. The five micro-operations of the round function: SC, AC, ARTX, SR, MC (40_round_function.md). Each has
effect on `IS` only (R100). -/

namespace Sys2Proof.Machine

/-- `SC`, SubCells (R101). -/
def execSc (s : State) : Result := .next { s with is := subCells s.is }

/-- `AC`, AddConstants with the constant of round `RND`; refused where `RND >= 56` (R102, R172). -/
def execAc (s : State) : Result :=
  if h : s.pos.rnd.toNat < 56 then
    .next { s with is := addConstants ⟨s.pos.rnd.toNat, h⟩ s.is }
  else
    .refused (.roundIndexOutOfRange s.pos.rnd)

/-- `ARTX`, the XOR of the three lanes into cells 0 to 7 (R103). -/
def execArtx (s : State) : Result :=
  .next { s with is := addRoundTweakey s.tk1 s.tk2 s.tk3 s.is }

/-- `SR`, ShiftRows (R104). -/
def execSr (s : State) : Result := .next { s with is := shiftRows s.is }

/-- `MC`, MixColumns (R105). -/
def execMc (s : State) : Result := .next { s with is := mixColumns s.is }

end Sys2Proof.Machine
end

