-- ==== Sys2Proof/Machine/TweakeySchedule.lean ====
section
/-! DEFINITION. The three micro-operations of the lane advance: TKP, LF2, LF3 (41_tweakey_schedule.md R120). -/

namespace Sys2Proof.Machine

/-- `TKP`: the same permutation on each lane, independently (R121). -/
def execTkp (s : State) : Result :=
  .next { s with tk1 := permuteLane s.tk1, tk2 := permuteLane s.tk2, tk3 := permuteLane s.tk3 }

/-- `LF2`: the feedback shift of cells 0 to 7 of `TK2` (R122). -/
def execLf2 (s : State) : Result := .next { s with tk2 := onTop lf2Cell s.tk2 }

/-- `LF3`: the feedback shift of cells 0 to 7 of `TK3` (R123). -/
def execLf3 (s : State) : Result := .next { s with tk3 := onTop lf3Cell s.tk3 }

end Sys2Proof.Machine
end

