-- ==== Sys2Proof/Machine/Dispatch.lean ====
section
/-! DEFINITION. One arm per micro-operation (30_encoding.md R81). -/

namespace Sys2Proof.Machine

/-- Execute one micro-operation: its own rule, and not the move of the sequencer position (42_driver.md R141). -/
def exec (i : Instr) (s : State) : Host.Outcome State Fault Refusal :=
  match i with
  | .idle => Sys2Proof.Machine.execIdle s
  | .load => Sys2Proof.Machine.execLoad s
  | .sc => Sys2Proof.Machine.execSc s
  | .ac => Sys2Proof.Machine.execAc s
  | .artx => Sys2Proof.Machine.execArtx s
  | .tkp => Sys2Proof.Machine.execTkp s
  | .lf2 => Sys2Proof.Machine.execLf2 s
  | .lf3 => Sys2Proof.Machine.execLf3 s
  | .sr => Sys2Proof.Machine.execSr s
  | .mc => Sys2Proof.Machine.execMc s
  | .fin => Sys2Proof.Machine.execFin s

end Sys2Proof.Machine
end

