-- ==== Sys2Proof/Machine/Flags.lean ====
section
/-! DEFINITION. The output ports: the two status flags and `ct_out` (10_state.md R26). They are functions of the state;
the engine has no other condition code, and no micro-operation computes a flag from data. -/

namespace Sys2Proof.Machine

/-- `busy` is 1 exactly when `PHASE` is `RUN` or `FIN` (R26). -/
def busy (s : State) : Bool :=
  match s.pos.phase with
  | .run | .fin => true
  | .idle | .done => false

/-- `done` is 1 exactly when `PHASE` is `DONE` (R26). -/
def done (s : State) : Bool :=
  match s.pos.phase with
  | .done => true
  | .idle | .run | .fin => false

/-- What the host reads on `ct_out`: `CT` while `done = 1`; while `done = 0` the value is unspecified
and the read is refused (R26, R209; 93_implementation_defined.md U3). A read is no step of the engine
(DEDUCED, notes/assumptions/7.md). -/
def ctOut (s : State) : Except Refusal Block :=
  if done s then .ok s.ct else .error .ctOutUnspecified

end Sys2Proof.Machine
end

