-- ==== Sys2Proof/WellFormed.lean ====
section
/-! DEFINITION. Which terms of the syntax, and which codes, have a meaning (30_encoding.md R80, R87; 60_exceptions.md R172). -/

namespace Sys2Proof

/-- A micro-operation has no operand field (R80, R82), so every term is well formed. -/
def Instr.wellFormed (i : Instr) : Bool :=
  match i with
  | .idle | .load | .sc | .ac | .artx | .tkp | .lf2 | .lf3 | .sr | .mc | .fin => true

/-- `ROUND r` has a meaning for `r = 0 .. 55` only (R102, R172). -/
def PseudoOp.wellFormed (p : PseudoOp) : Bool :=
  match p with
  | .tkadv | .art | .encrypt => true
  | .round r => r.toNat < 56

/-- The codes `0x0 .. 0xA` name a micro-operation; `0xB .. 0xF` are reserved (R81, R87). -/
def codeWellFormed (op : BitVec 4) : Bool := op.toNat ≤ 0xA

end Sys2Proof
end

