-- ==== Sys2Proof/Decode.lean ====
section
/-! DEFINITION. The decoder and the encoder of format `U` (30_encoding.md R80, R81, R87; 95_test_vectors.md section 4). -/

namespace Sys2Proof

/-- Why a code or a byte is no micro-operation. -/
inductive DecodeReject where
  /-- A reserved code `0xB .. 0xF` (R87). Safe: the hardware never produces one. -/
  | reservedCode (op : BitVec 4)
  /-- A byte with a bit set above `op[3:0]`: format `U` has no such bit (R80). Safe. -/
  | notACode (byte : BitVec 8)
deriving DecidableEq, Repr

/-- The micro-operation that a 4-bit code names (R81); the reserved codes are rejected (R87). -/
def decode (op : BitVec 4) : Except DecodeReject Instr :=
  match op with
  | 0x0#4 => .ok .idle
  | 0x1#4 => .ok .load
  | 0x2#4 => .ok .sc
  | 0x3#4 => .ok .ac
  | 0x4#4 => .ok .artx
  | 0x5#4 => .ok .tkp
  | 0x6#4 => .ok .lf2
  | 0x7#4 => .ok .lf3
  | 0x8#4 => .ok .sr
  | 0x9#4 => .ok .mc
  | 0xA#4 => .ok .fin
  | r     => .error (.reservedCode r)

/-- A code held in a byte: `op` in bits 3 to 0, and no other field (R80; DESIGN CHOICE,
notes/assumptions/8.md). -/
def decodeByte (b : BitVec 8) : Except DecodeReject Instr :=
  if b.toNat < 16 then decode (b.extractLsb' 0 4) else .error (.notACode b)

/-- A program is the list of its micro-operations' codes (95_test_vectors.md section 4). -/
def decodeProgram : List (BitVec 4) → Except DecodeReject (List Instr)
  | [] => .ok []
  | op :: rest =>
    match decode op with
    | .error e => .error e
    | .ok i =>
      match decodeProgram rest with
      | .error e => .error e
      | .ok is => .ok (i :: is)

/-- The instruction the decoder reads from a table word: the one byte that holds the code. The table
gives every row 4 bits, one byte when counted in whole bytes. -/
def decodeTableWord (_nbits w : Nat) : Option Instr :=
  if w < 256 then
    match decodeByte (BitVec.ofNat 8 w) with
    | .ok i => some i
    | .error _ => none
  else none

/-- The code of a micro-operation, from the table of R81. -/
def encode (i : Instr) : BitVec 4 :=
  match i with
  | .idle => 0x0
  | .load => 0x1
  | .sc   => 0x2
  | .ac   => 0x3
  | .artx => 0x4
  | .tkp  => 0x5
  | .lf2  => 0x6
  | .lf3  => 0x7
  | .sr   => 0x8
  | .mc   => 0x9
  | .fin  => 0xA

/-- The codes of a program, in order. -/
def encodeProgram (is : List Instr) : List (BitVec 4) := is.map encode

end Sys2Proof
end

