-- ==== Sys2Proof/Machine/Sequencer.lean ====
section
/-! DEFINITION. The hardwired sequencer: which code it issues, and how the position moves (30_encoding.md R83, R84, R88;
42_driver.md R147 to R151). It reads no datapath register. -/

namespace Sys2Proof.Machine

/-- The encoding of `PHASE` (R27, R88). -/
def phaseCode (p : Phase) : BitVec 2 :=
  match p with
  | .idle => 0
  | .run => 1
  | .fin => 2
  | .done => 3

/-- The phase that a 2-bit value encodes; no value is reserved (R88). -/
def phaseOfCode (c : BitVec 2) : Phase :=
  match c with
  | 0#2 => .idle
  | 1#2 => .run
  | 2#2 => .fin
  | 3#2 => .done

/-- The codes of `SEQ[0] .. SEQ[7]`: SC, AC, ARTX, TKP, LF2, LF3, SR, MC (R83, R81). -/
def seqCodes : Vector (BitVec 4) 8 := #v[0x2, 0x3, 0x4, 0x5, 0x6, 0x7, 0x8, 0x9]

/-- `SEQ[STEP]` as a code (R83). -/
def seqCode (stp : BitVec 3) : BitVec 4 := seqCodes[stp.toNat]'(BitVec.isLt _)

/-- The code the sequencer issues at a position, given `start` (R84). -/
def issuedCode (p : Position) (start : Bool) : BitVec 4 :=
  match p.phase with
  | .idle | .done => if start then 0x1 else 0x0
  | .run => seqCode p.stp
  | .fin => 0xA

/-- The next position after a micro-operation of a round (R148, R149). There is none at `STEP = 7`
with `RND >= 56`, a position that is never reached (DESIGN CHOICE, notes/assumptions/3.md). -/
def nextInRound (p : Position) : Option Position :=
  if p.stp.toNat < 7 then some { p with stp := p.stp + 1 }
  else if p.rnd.toNat < 55 then some { phase := .run, rnd := p.rnd + 1, stp := 0 }
  else if p.rnd.toNat = 55 then some { phase := .fin, rnd := 55, stp := 7 }
  else none

/-- The position after micro-operation `u` (R147 to R151), by the same rules where no run gets
(DEDUCED, notes/assumptions/5.md). -/
def nextPosition (u : Instr) (p : Position) : Option Position :=
  match u with
  | .idle => some p
  | .load => some { phase := .run, rnd := 0, stp := 0 }
  | .sc | .ac | .artx | .tkp | .lf2 | .lf3 | .sr | .mc => nextInRound p
  | .fin => some { p with phase := .done }

end Sys2Proof.Machine
end

