-- ==== Sys2Proof/Machine/Step.lean ====
section
/-! DEFINITION. One step of the engine, and the placement of an instruction where the next step issues it (42_driver.md R141). -/

namespace Sys2Proof.Machine

/-- Execute `u`, then move the position, then let the host drive the ports for the next step (R141). -/
def runOp (u : Instr) (s : State) : Result :=
  andThen (exec u s) fun t =>
    match nextPosition u s.pos with
    | some p => .next (drive { t with pos := p })
    | none => .refused (.noSuccessor s.pos)

/-- One step. `rst = 1` wins over everything, and then no micro-operation executes; otherwise the
issued code is decoded and run (R141, R175). A reserved code has no meaning (R87). -/
def step (s : State) : Host.Outcome State Fault Refusal :=
  if s.inputs.rst then .next (drive (applyReset s))
  else
    match decode (issuedCode s.pos s.inputs.start) with
    | .ok u => runOp u s
    | .error _ => .refused (.reservedCode (issuedCode s.pos s.inputs.start))

/-- The state with `rst` and `start` low. -/
def State.quietControls (s : State) : State :=
  { s with inputs := { s.inputs with rst := false, start := false } }

/-- `s` with phase `p` and step `k`, `rst` and `start` low, so that `SEQ[k]` or `FIN` is issued next. -/
def State.placedAt (s : State) (p : Phase) (k : BitVec 3) : State :=
  { s.quietControls with pos := { s.pos with phase := p, stp := k } }

/-- `s` set up so that the very next step issues the micro-operation of the table word `w`
(DESIGN CHOICE, notes/assumptions/4.md). There is no instruction memory (20_memory.md R50): the sequencer selects
the micro-operation from `PHASE`, `STEP` and `start` (R84), so those, and `rst = 0`, are what it
sets. A reserved code can be issued from no state (R87), and leaves `s` as it is. -/
def State.withFetchWord (s : State) (nbits w : Nat) : State :=
  match decodeTableWord nbits w with
  | none => s
  | some .idle => s.placedAt .idle s.pos.stp
  | some .load =>
    { s.placedAt .idle s.pos.stp with inputs := { s.inputs with rst := false, start := true } }
  | some .sc => s.placedAt .run 0
  | some .ac => s.placedAt .run 1
  | some .artx => s.placedAt .run 2
  | some .tkp => s.placedAt .run 3
  | some .lf2 => s.placedAt .run 4
  | some .lf3 => s.placedAt .run 5
  | some .sr => s.placedAt .run 6
  | some .mc => s.placedAt .run 7
  | some .fin => s.placedAt .fin s.pos.stp

end Sys2Proof.Machine
end

