-- ==== Sys2Proof/Machine/Engines.lean ====
section
/-! DEFINITION. Several engines side by side (20_memory.md R68; 60_exceptions.md R182): each has all its state and ports
of its own, and they share only the tables, which are constants. -/

namespace Sys2Proof.Machine

/-- One step of engine `k` of `n`; the other engines are left as they are (DESIGN CHOICE,
notes/assumptions/10.md). -/
def stepEngine {n : Nat} (k : Fin n) (sys : Vector State n) :
    Host.Outcome (Vector State n) Fault Refusal :=
  match step sys[k] with
  | .next t => .next (sys.set k t)
  | .fault e => .fault e
  | .refused e => .refused e

end Sys2Proof.Machine
end

