-- ==== Sys2Proof/Machine/Encrypt.lean ====
section
/-! DEFINITION. The round function, the lane advance and the function `ENCRYPT` on plain data, and the pseudo-operations
as sequences of micro-operations (42_driver.md R145, R152; 41_tweakey_schedule.md R125; 30_encoding.md R92). -/

namespace Sys2Proof.Machine

/-! ## The functions -/

/-- The registers a round works on: `IS` and the three lanes (R145). -/
structure Datapath where
  is : Block
  tk1 : Block
  tk2 : Block
  tk3 : Block
deriving DecidableEq, Repr

/-- The datapath registers of a state. -/
def datapath (s : State) : Datapath := { is := s.is, tk1 := s.tk1, tk2 := s.tk2, tk3 := s.tk3 }

/-- What `LOAD` of plaintext `p` and tweakey `k` leaves (R143). -/
def loaded (p : Block) (k : TweakeyBlock) : Datapath :=
  { is := p, tk1 := laneSlice 0 k, tk2 := laneSlice 1 k, tk3 := laneSlice 2 k }

/-- `ROUND r` as a function; `ARTX` uses the lanes the round began with (R145). -/
def roundFunction (r : Fin 56) (d : Datapath) : Datapath :=
  { is := mixColumns (shiftRows
      (addRoundTweakey d.tk1 d.tk2 d.tk3 (addConstants r (subCells d.is))))
    tk1 := permuteLane d.tk1
    tk2 := onTop lf2Cell (permuteLane d.tk2)
    tk3 := onTop lf3Cell (permuteLane d.tk3) }

/-- Rounds `0 .. n - 1` (R152). -/
def rounds : (n : Nat) → n ≤ 56 → Datapath → Datapath
  | 0, _, d => d
  | n + 1, h, d => roundFunction ⟨n, h⟩ (rounds n (by omega) d)

/-- `ENCRYPT(P, K)` (R152). -/
def encrypt (p : Block) (k : TweakeyBlock) : Block := (rounds 56 (by omega) (loaded p k)).is

/-! ## The pseudo-operations -/

/-- Run micro-operations one after another, the position left alone (R92). -/
def execSeq : List Instr → State → Result
  | [], s => .next s
  | i :: is, s => andThen (exec i s) (execSeq is)

/-- The eight micro-operations of a round (R83). -/
def roundOps : List Instr := [.sc, .ac, .artx, .tkp, .lf2, .lf3, .sr, .mc]

/-- `TKADV` is `TKP ; LF2 ; LF3` (R92). -/
def tkadvOps : List Instr := [.tkp, .lf2, .lf3]

/-- `ART` is `ARTX ; TKADV` (R92). -/
def artOps : List Instr := .artx :: tkadvOps

/-- `ROUND r`: with `RND = r`, the eight micro-operations (R92). -/
def execRound (r : BitVec 6) (s : State) : Result :=
  execSeq roundOps { s with pos := { s.pos with rnd := r } }

/-- `ROUND 0 ; .. ; ROUND (n - 1)`. -/
def execRounds : Nat → State → Result
  | 0, s => .next s
  | n + 1, s => andThen (execRounds n s) (execRound (BitVec.ofNat 6 n))

/-- The meaning of a pseudo-operation: its parts in the order written (R92). -/
def execPseudo (p : PseudoOp) (s : State) : Result :=
  match p with
  | .tkadv => execSeq tkadvOps s
  | .art => execSeq artOps s
  | .round r => execRound r s
  | .encrypt => andThen (andThen (exec .load s) (execRounds 56)) (exec .fin)

/-- The micro-operations of a pseudo-operation, in order (R92; 95_test_vectors.md section 4). -/
def expansion (p : PseudoOp) : List Instr :=
  match p with
  | .tkadv => tkadvOps
  | .art => artOps
  | .round _ => roundOps
  | .encrypt => .load :: ((List.replicate 56 roundOps).flatten ++ [.fin])

end Sys2Proof.Machine
end

