-- ==== Sys2Proof/Machine/Fused.lean ====
section
/-! DEFINITION. A permitted implementation: one round per clock, with no `STEP` register (42_driver.md R157). It is not
the machine of this model (`step` is); it is here so that what R157 permits can be stated about it (DESIGN CHOICE, notes/assumptions/11.md). -/

namespace Sys2Proof.Machine

/-- The registers of an engine that does a round in one clock. -/
structure FusedState where
  d : Datapath
  ct : Block
  phase : Phase
  rnd : Fin 56
deriving DecidableEq, Repr

/-- One clock of the fused engine on the port levels `i` (R157, with the decode of R84). -/
def fusedClock (i : Inputs) (f : FusedState) : FusedState :=
  if i.rst then { f with phase := .idle, rnd := 0 }
  else
    match f.phase with
    | .idle | .done =>
      if i.start then { f with d := loaded i.ptIn i.tkIn, phase := .run, rnd := 0 } else f
    | .run =>
      if h : f.rnd.val + 1 < 56 then { f with d := roundFunction f.rnd f.d, rnd := ⟨f.rnd.val + 1, h⟩ }
      else { f with d := roundFunction f.rnd f.d, phase := .fin }
    | .fin => { f with ct := f.d.is, phase := .done }

/-- The fused engine after the clocks whose port levels are listed, first clock first. -/
def fusedRun : List Inputs → FusedState → FusedState
  | [], f => f
  | i :: is, f => fusedRun is (fusedClock i f)

end Sys2Proof.Machine
end

