-- ==== Sys2Proof/Machine/Operands.lean ====
section
/-! DEFINITION. The implicit operands: which places each micro-operation reads and which it writes (30_encoding.md R82;
10_state.md R21, R23). A micro-operation names no register, so this table is every operand form there is. -/

namespace Sys2Proof.Machine

/-- One place a micro-operation can read or write: a cell of a register, a byte of an input port, or
`RND`. -/
inductive Loc where
  | is (i : Fin 16)
  | tk1 (i : Fin 16)
  | tk2 (i : Fin 16)
  | tk3 (i : Fin 16)
  | ct (i : Fin 16)
  | ptIn (i : Fin 16)
  | tkIn (i : Fin 48)
  | rnd
deriving DecidableEq, Repr

/-- What a place holds, as a number. -/
def look (s : State) (l : Loc) : Nat :=
  match l with
  | .is i => s.is[i].toNat
  | .tk1 i => s.tk1[i].toNat
  | .tk2 i => s.tk2[i].toNat
  | .tk3 i => s.tk3[i].toNat
  | .ct i => s.ct[i].toNat
  | .ptIn i => s.inputs.ptIn[i].toNat
  | .tkIn i => s.inputs.tkIn[i].toNat
  | .rnd => s.pos.rnd.toNat

/-- The read-only tables (20_memory.md R50). -/
inductive Table where
  | s8
  | rc
  | pt
  | m
deriving DecidableEq, Repr

/-- The cells `IS[0]`, `IS[4]`, `IS[8]`, on which `AC` works. -/
def isConstantCell (i : Fin 16) : Bool := i.val = 0 || i.val = 4 || i.val = 8

/-- The column "reads" of R82. -/
def reads (u : Instr) (l : Loc) : Bool :=
  match u with
  | .idle => false
  | .load => match l with
    | .ptIn _ | .tkIn _ => true
    | .is _ | .tk1 _ | .tk2 _ | .tk3 _ | .ct _ | .rnd => false
  | .sc | .sr | .mc | .fin => match l with
    | .is _ => true
    | .tk1 _ | .tk2 _ | .tk3 _ | .ct _ | .ptIn _ | .tkIn _ | .rnd => false
  | .ac => match l with
    | .is i => isConstantCell i
    | .rnd => true
    | .tk1 _ | .tk2 _ | .tk3 _ | .ct _ | .ptIn _ | .tkIn _ => false
  | .artx => match l with
    | .is i | .tk1 i | .tk2 i | .tk3 i => i.val < 8
    | .ct _ | .ptIn _ | .tkIn _ | .rnd => false
  | .tkp => match l with
    | .tk1 _ | .tk2 _ | .tk3 _ => true
    | .is _ | .ct _ | .ptIn _ | .tkIn _ | .rnd => false
  | .lf2 => match l with
    | .tk2 i => i.val < 8
    | .is _ | .tk1 _ | .tk3 _ | .ct _ | .ptIn _ | .tkIn _ | .rnd => false
  | .lf3 => match l with
    | .tk3 i => i.val < 8
    | .is _ | .tk1 _ | .tk2 _ | .ct _ | .ptIn _ | .tkIn _ | .rnd => false

/-- The tables in the column "reads" of R82. -/
def readsTable (u : Instr) (t : Table) : Bool :=
  match u with
  | .idle | .load | .artx | .lf2 | .lf3 | .sr | .fin => false
  | .sc => t = .s8
  | .ac => t = .rc
  | .tkp => t = .pt
  | .mc => t = .m

/-- The column "writes" of R82. -/
def writes (u : Instr) (l : Loc) : Bool :=
  match u with
  | .idle => false
  | .load => match l with
    | .is _ | .tk1 _ | .tk2 _ | .tk3 _ => true
    | .ct _ | .ptIn _ | .tkIn _ | .rnd => false
  | .sc | .sr | .mc => match l with
    | .is _ => true
    | .tk1 _ | .tk2 _ | .tk3 _ | .ct _ | .ptIn _ | .tkIn _ | .rnd => false
  | .ac => match l with
    | .is i => isConstantCell i
    | .tk1 _ | .tk2 _ | .tk3 _ | .ct _ | .ptIn _ | .tkIn _ | .rnd => false
  | .artx => match l with
    | .is i => i.val < 8
    | .tk1 _ | .tk2 _ | .tk3 _ | .ct _ | .ptIn _ | .tkIn _ | .rnd => false
  | .tkp => match l with
    | .tk1 _ | .tk2 _ | .tk3 _ => true
    | .is _ | .ct _ | .ptIn _ | .tkIn _ | .rnd => false
  | .lf2 => match l with
    | .tk2 i => i.val < 8
    | .is _ | .tk1 _ | .tk3 _ | .ct _ | .ptIn _ | .tkIn _ | .rnd => false
  | .lf3 => match l with
    | .tk3 i => i.val < 8
    | .is _ | .tk1 _ | .tk2 _ | .ct _ | .ptIn _ | .tkIn _ | .rnd => false
  | .fin => match l with
    | .ct _ => true
    | .is _ | .tk1 _ | .tk2 _ | .tk3 _ | .ptIn _ | .tkIn _ | .rnd => false

end Sys2Proof.Machine
end

