-- ==== Sys2Proof/Machine/Ports.lean ====
section
/-! DEFINITION. The packing of the data ports onto wires (20_memory.md R59, decision D4): byte 0 is the most significant
byte of the vector. The step function uses the arrays of cells of R58 and never meets this packing. -/

namespace Sys2Proof.Machine

/-- A sequence of cells as one big number, the first cell most significant. -/
def bytesToNat (l : List Cell) : Nat := l.foldl (fun acc c => 256 * acc + c.toNat) 0

/-- The 128-bit ports `pt_in` and `ct_out` (R59). -/
def packBlock (b : Block) : BitVec 128 := BitVec.ofNat 128 (bytesToNat b.toList)

/-- Byte `i` of a 128-bit port is bits `[127 - 8*i : 120 - 8*i]` (R59). -/
def unpackBlock (w : BitVec 128) : Block := Vector.ofFn fun i => w.extractLsb' (120 - 8 * i.val) 8

/-- The 384-bit port `tk_in` (R59). -/
def packTweakey (k : TweakeyBlock) : BitVec 384 := BitVec.ofNat 384 (bytesToNat k.toList)

/-- Byte `i` of the 384-bit port is bits `[383 - 8*i : 376 - 8*i]` (R59). -/
def unpackTweakey (w : BitVec 384) : TweakeyBlock :=
  Vector.ofFn fun i => w.extractLsb' (376 - 8 * i.val) 8

end Sys2Proof.Machine
end

