-- ==== Sys2Proof/Safety.lean ====
section
/-! DEFINITION. What claims mean by a legal position, a waiting engine, and two states that agree on all that can matter
(10_state.md R35, R36). -/

namespace Sys2Proof.Machine

/-- The 451 positions an engine can be in after a reset step (R36). -/
def Position.legal (p : Position) : Bool :=
  match p.phase with
  | .idle => p.rnd = 0 && p.stp = 0
  | .run => p.rnd.toNat < 56
  | .fin | .done => p.rnd = 55 && p.stp = 7

/-- The engine waits for `start` (R84). -/
def waiting (p : Phase) : Bool :=
  match p with
  | .idle | .done => true
  | .run | .fin => false

/-- `k` steps of the machine, stopping at the first refusal. -/
abbrev runSteps (k : Nat) (s : State) : Result := Host.Core.run core k s

/-- `rst` is low in the `n` steps that begin with the one `from_` steps after the coming one. -/
def NoReset (s : State) (from_ n : Nat) : Prop :=
  ∀ k, from_ ≤ k → k < from_ + n → (inputsAfter k s).rst = false

/-- A step that begins an encryption of plaintext `p` under tweakey `k`, with `rst` low in it and in
the 449 steps after it; the other inputs of those steps are arbitrary (42_driver.md R153). -/
structure StartsRun (s : State) (p : Block) (k : TweakeyBlock) : Prop where
  waits : waiting s.pos.phase = true
  rst : s.inputs.rst = false
  start : s.inputs.start = true
  ptIn : s.inputs.ptIn = p
  tkIn : s.inputs.tkIn = k
  noReset : NoReset s 1 449

/-- `u` has code `op`, and the sequencer issues it exactly at step `k` of `PHASE = RUN` (30_encoding.md
R81, R83). -/
def IssuedAtStep (u : Instr) (op : BitVec 4) (k : BitVec 3) : Prop :=
  encode u = op ∧ ∀ p start, decode (issuedCode p start) = .ok u ↔ p.phase = .run ∧ p.stp = k

/-- The registers of the engine, without what the host drives: all the state R18 and R32 name. -/
def SameRegisters (s t : State) : Prop :=
  datapath s = datapath t ∧ s.ct = t.ct ∧ s.pos = t.pos

/-- Two states that differ at most in registers nothing can read before they are written: the
datapath while the engine waits, and `CT` while `done = 0` (R35, R201). -/
structure Agree (s t : State) : Prop where
  pos : s.pos = t.pos
  inputs : s.inputs = t.inputs
  schedule : s.schedule = t.schedule
  /-- During a run the datapath registers agree. -/
  running : waiting s.pos.phase = false → datapath s = datapath t
  /-- While `done = 1` the output registers agree. -/
  shown : s.pos.phase = .done → s.ct = t.ct

end Sys2Proof.Machine
end

