-- ==== Sys2Proof/Certificates/Slice0/Obligations.lean ====
section
/-! DEFINITION. The statements for the provers. Each docstring names the rule of spec/ it formalises. -/

open Sys2Proof Sys2Proof.Machine

/-! ## Encoding and decoding -/

/-- R81, R87: the eleven codes, written out from the table, decode to their micro-operations, and the
reserved codes are rejected by name. -/
def Obligations.TableCodesDecode : Prop :=
  decode 0b0000 = .ok .idle ∧ decode 0b0001 = .ok .load ∧ decode 0b0010 = .ok .sc ∧
  decode 0b0011 = .ok .ac ∧ decode 0b0100 = .ok .artx ∧ decode 0b0101 = .ok .tkp ∧
  decode 0b0110 = .ok .lf2 ∧ decode 0b0111 = .ok .lf3 ∧ decode 0b1000 = .ok .sr ∧
  decode 0b1001 = .ok .mc ∧ decode 0b1010 = .ok .fin ∧
  ∀ op : BitVec 4, 0xB ≤ op.toNat → decode op = .error (.reservedCode op)

/-- Derived from R80, R81: a program's codes decode to the program, every accepted code list is the
encoding of what it decodes to, and a reserved code anywhere makes the list rejected, by a reserved code
that is in it. -/
def Obligations.ProgramCodesRoundTrip : Prop :=
  (∀ is : List Instr, (∀ i ∈ is, i.wellFormed = true) → decodeProgram (encodeProgram is) = .ok is) ∧
  (∀ ops is, decodeProgram ops = .ok is → encodeProgram is = ops) ∧
  (∀ ops, (∃ op ∈ ops, codeWellFormed op = false) →
    ∃ op ∈ ops, codeWellFormed op = false ∧ decodeProgram ops = .error (.reservedCode op))

/-- R84: which micro-operation is issued, row by row, with `SEQ` as in R83; eleven codes can be
produced and no other. -/
def Obligations.CompleteIssueTable : Prop :=
  (∀ r k, decode (issuedCode ⟨.idle, r, k⟩ false) = .ok .idle) ∧
  (∀ r k, decode (issuedCode ⟨.idle, r, k⟩ true) = .ok .load) ∧
  (∀ r start, (List.finRange 8).map
      (fun k => decode (issuedCode ⟨.run, r, BitVec.ofFin k⟩ start)) =
    [.ok .sc, .ok .ac, .ok .artx, .ok .tkp, .ok .lf2, .ok .lf3, .ok .sr, .ok .mc]) ∧
  (∀ r k start, decode (issuedCode ⟨.fin, r, k⟩ start) = .ok .fin) ∧
  (∀ r k, decode (issuedCode ⟨.done, r, k⟩ false) = .ok .idle) ∧
  (∀ r k, decode (issuedCode ⟨.done, r, k⟩ true) = .ok .load) ∧
  (∀ p start, (issuedCode p start).toNat ≤ 0xA) ∧
  (∀ op : BitVec 4, op.toNat ≤ 0xA → ∃ p start, issuedCode p start = op)

/-- Derived from R84 and notes/assumptions/4.md (the model's choice of how an instruction is placed):
the very next step after `withFetchWord` runs the word's instruction, whatever the state was. -/
def Obligations.PlacedWordRunsNext : Prop :=
  ∀ (s : State) (nbits w : Nat) (u : Instr), decodeTableWord nbits w = some u →
    step (s.withFetchWord nbits w) = runOp u (s.withFetchWord nbits w) ∧
    SameRegisters { s.withFetchWord nbits w with pos := s.pos } s

/-! ## The step and the sequencer -/

/-- Derived from R141: one step. With `rst = 1` the position is reset and nothing else in the machine
changes; otherwise the issued micro-operation is executed and then the position moves. What `step` adds
is `drive`, the host's levels for the next step, the model's choice (notes/assumptions/2.md). -/
def Obligations.StepRunsDecodedInstruction : Prop :=
  (∀ s : State, s.inputs.rst = true → step s = .next (drive { s with pos := ⟨.idle, 0, 0⟩ })) ∧
  (∀ (s t : State) (u : Instr) (p : Position), s.inputs.rst = false →
    decode (issuedCode s.pos s.inputs.start) = .ok u → exec u s = .next t →
    nextPosition u s.pos = some p → step s = .next (drive { t with pos := p })) ∧
  (∀ (s : State) (u : Instr) (r : Refusal), s.inputs.rst = false →
    decode (issuedCode s.pos s.inputs.start) = .ok u → exec u s = .refused r → step s = .refused r)

/-- R147 to R151: the complete successor function, row by row, for any levels on the other ports. -/
def Obligations.SuccessorTable : Prop :=
  (∀ s : State, s.inputs.rst = true → ∃ t, step s = .next t ∧ t.pos = ⟨.idle, 0, 0⟩) ∧
  ∀ s : State, s.inputs.rst = false →
    (s.pos = ⟨.idle, 0, 0⟩ → s.inputs.start = false →
      ∃ t, step s = .next t ∧ t.pos = ⟨.idle, 0, 0⟩) ∧
    (s.pos = ⟨.idle, 0, 0⟩ → s.inputs.start = true →
      ∃ t, step s = .next t ∧ t.pos = ⟨.run, 0, 0⟩) ∧
    (∀ r k, s.pos = ⟨.run, r, k⟩ → r.toNat ≤ 55 → k.toNat < 7 →
      ∃ t, step s = .next t ∧ t.pos = ⟨.run, r, k + 1⟩) ∧
    (∀ r, s.pos = ⟨.run, r, 7⟩ → r.toNat < 55 →
      ∃ t, step s = .next t ∧ t.pos = ⟨.run, r + 1, 0⟩) ∧
    (s.pos = ⟨.run, 55, 7⟩ → ∃ t, step s = .next t ∧ t.pos = ⟨.fin, 55, 7⟩) ∧
    (s.pos = ⟨.fin, 55, 7⟩ → ∃ t, step s = .next t ∧ t.pos = ⟨.done, 55, 7⟩) ∧
    (s.pos = ⟨.done, 55, 7⟩ → s.inputs.start = false →
      ∃ t, step s = .next t ∧ t.pos = ⟨.done, 55, 7⟩) ∧
    (s.pos = ⟨.done, 55, 7⟩ → s.inputs.start = true →
      ∃ t, step s = .next t ∧ t.pos = ⟨.run, 0, 0⟩)

/-- R175: `rst` first, and then no micro-operation executes; then, in the waiting phases, `start = 1`
causes `LOAD`; otherwise the sequence proceeds or waits, and `start` is ignored in `RUN` and `FIN`. -/
def Obligations.EventPrecedence : Prop :=
  (∀ s : State, s.inputs.rst = true →
    ∃ t, step s = .next t ∧ SameRegisters t { s with pos := ⟨.idle, 0, 0⟩ }) ∧
  (∀ s : State, s.inputs.rst = false → waiting s.pos.phase = true → s.inputs.start = true →
    ∃ t t', exec .load s = .next t ∧ step s = .next t' ∧
      SameRegisters t' { t with pos := ⟨.run, 0, 0⟩ }) ∧
  (∀ (s t : State) (u : Instr) (p : Position), s.inputs.rst = false → waiting s.pos.phase = false →
    decode (issuedCode s.pos false) = .ok u → exec u s = .next t → nextPosition u s.pos = some p →
    ∃ t', step s = .next t' ∧ SameRegisters t' { t with pos := p }) ∧
  (∀ s : State, s.inputs.rst = false → waiting s.pos.phase = true → s.inputs.start = false →
    ∃ t, step s = .next t ∧ SameRegisters t s)

/-- R36: every step from a legal position answers a next state, at a legal position again; a reset step
reaches one from any state, so every run that begins with a reset step stays legal and `RND` never
exceeds 55; and `RND` and `STEP` are read by nothing in `FIN` and `DONE`. -/
def Obligations.LegalPositionsKept : Prop :=
  (∀ s : State, s.pos.legal = true → ∃ t, step s = .next t ∧ t.pos.legal = true) ∧
  (∀ (s : State) (n : Nat), s.inputs.rst = true →
    ∃ t, runSteps (n + 1) s = .next t ∧ t.pos.legal = true ∧ t.pos.rnd.toNat ≤ 55) ∧
  (∀ (s t : State) (r : BitVec 6) (k : BitVec 3), s.pos.phase = .fin ∨ s.pos.phase = .done →
    step s = .next t → ∃ t', step { s with pos := ⟨s.pos.phase, r, k⟩ } = .next t' ∧
      datapath t' = datapath t ∧ t'.ct = t.ct ∧ t'.pos.phase = t.pos.phase)

/-- Derived from R34, R36: the state after reset is at a legal position, waits, and shows `busy = 0`,
`done = 0` and no ciphertext. -/
def Obligations.ResetStateIsLegal : Prop :=
  State.reset.pos.legal = true ∧ State.reset.pos = ⟨.idle, 0, 0⟩ ∧
  busy State.reset = false ∧ done State.reset = false ∧
  ctOut State.reset = .error .ctOutUnspecified

/-- R200: a reset step, held for any number of steps, from any state (a power-on state among them):
`PHASE <- IDLE`, `RND <- 0`, `STEP <- 0`, and nothing else. -/
def Obligations.ResetHeldClearsPositionOnly : Prop :=
  ∀ (s : State) (n : Nat), (∀ k, k < n + 1 → (inputsAfter k s).rst = true) →
    ∃ t, runSteps (n + 1) s = .next t ∧ t.pos = ⟨.idle, 0, 0⟩ ∧
      datapath t = datapath s ∧ t.ct = s.ct

/-- R172, R63: `AC` with `RND >= 56` is refused, by the micro-operation and by the step that issues
it, also at 56 to 61 where `RC` has entries. -/
def Obligations.AddConstantsRefusedBeyondRound55 : Prop :=
  (∀ s : State, 56 ≤ s.pos.rnd.toNat →
    exec .ac s = .refused (.roundIndexOutOfRange s.pos.rnd)) ∧
  (∀ s : State, s.inputs.rst = false → s.pos.phase = .run → s.pos.stp = 1 →
    56 ≤ s.pos.rnd.toNat → step s = .refused (.roundIndexOutOfRange s.pos.rnd))

/-- Derived from R88, R149 and notes/assumptions/3.md (the model's choice): at `STEP = 7` with
`RND >= 56`, to which the spec gives no successor, the step is refused by name; a step refuses only
there and at `AC`. -/
def Obligations.StepRefusesOnlyBeyondRound55 : Prop :=
  (∀ s : State, s.inputs.rst = false → s.pos.phase = .run → s.pos.stp = 7 →
    56 ≤ s.pos.rnd.toNat → step s = .refused (.noSuccessor s.pos)) ∧
  (∀ s : State, (∃ t, step s = .next t) ∨
    (s.inputs.rst = false ∧ s.pos.phase = .run ∧ 56 ≤ s.pos.rnd.toNat ∧
      (s.pos.stp = 1 ∨ s.pos.stp = 7)))

/-! ## The ports and the output register -/

/-- R26: the two flags, functions of `PHASE` alone, zero after reset, set and read by no
micro-operation; and `ct_out`, which is `CT` while `done = 1` and has no value while `done = 0`. -/
def Obligations.StatusFlags : Prop :=
  (∀ s, busy s = true ↔ s.pos.phase = .run ∨ s.pos.phase = .fin) ∧
  (∀ s, done s = true ↔ s.pos.phase = .done) ∧
  (∀ s, done s = true → ctOut s = .ok s.ct) ∧
  (∀ s, done s = false → ctOut s = .error .ctOutUnspecified) ∧
  (∀ u s t, exec u s = .next t → busy t = busy s ∧ done t = done s) ∧
  (∀ (u : Instr) (s t : State) (p : Phase), exec u s = .next t →
    exec u { s with pos := { s.pos with phase := p } } =
      .next { t with pos := { t.pos with phase := p } }) ∧
  busy State.reset = false ∧ done State.reset = false

/-- R24: `CT` changes in a step only when `FIN` is executed, and then holds all of `IS`; and no
micro-operation reads it. -/
def Obligations.OnlyFinWritesCT : Prop :=
  (∀ s t, step s = .next t →
    (s.pos.phase = .fin ∧ s.inputs.rst = false ∧ t.ct = s.is) ∨
    (¬ (s.pos.phase = .fin ∧ s.inputs.rst = false) ∧ t.ct = s.ct)) ∧
  (∀ (u : Instr) (s t : State) (c : Block), exec u s = .next t →
    ∃ t', exec u { s with ct := c } = .next t' ∧ datapath t' = datapath t ∧ t'.pos = t.pos)

/-- Derived from R65 (b), (c) and R174: `done` becomes 1 only by `FIN`, in the same step as `CT` is
written, and goes back to 0 only by `LOAD` or reset. -/
def Obligations.DoneChangesOnlyByFinLoadReset : Prop :=
  ∀ s t, step s = .next t →
    (done s = false → done t = true →
      s.pos.phase = .fin ∧ s.inputs.rst = false ∧ ctOut t = .ok s.is) ∧
    (done s = true → done t = false → s.inputs.rst = true ∨ s.inputs.start = true) ∧
    (done s = true → done t = true → ctOut t = ctOut s)

/-- Derived from R25, R144 and 93_implementation_defined.md U8: the registers after a step do not
depend on `pt_in` and `tk_in` unless `LOAD` is executed, nor on `start` in `RUN` and `FIN`. -/
def Obligations.PortsReadOnlyByLoad : Prop :=
  ∀ (s t : State) (j : Inputs), step s = .next t → j.rst = s.inputs.rst →
    (s.inputs.rst = true ∨ waiting s.pos.phase = false ∨
      (s.inputs.start = false ∧ j.start = false)) →
    ∃ t', step { s with inputs := j } = .next t' ∧ SameRegisters t' t

/-- R59: byte `i` of a port vector is bits `[127 - 8*i : 120 - 8*i]` (`[383 - 8*i : 376 - 8*i]` for
`tk_in`), and packing and unpacking are inverse to each other. -/
def Obligations.PortPacking : Prop :=
  (∀ (b : Block) (i : Fin 16), (packBlock b).extractLsb' (120 - 8 * i.val) 8 = b[i]) ∧
  (∀ (k : TweakeyBlock) (i : Fin 48), (packTweakey k).extractLsb' (376 - 8 * i.val) 8 = k[i]) ∧
  (∀ b, unpackBlock (packBlock b) = b) ∧ (∀ w, packBlock (unpackBlock w) = w) ∧
  (∀ k, unpackTweakey (packTweakey k) = k) ∧ (∀ w, packTweakey (unpackTweakey w) = w)

/-! ## The tables -/

/-- R52: the S-box is a bijection, and equals its bit-level recipe on all 256 cells. -/
def Obligations.SboxBijectiveAndMatchesRecipe : Prop :=
  (∀ y : Cell, ∃ x, s8 x = y ∧ ∀ x', s8 x' = y → x' = x) ∧ ∀ x, s8 x = s8Recipe x

/-- R54: the 62 round constants are the outputs of the shift register. -/
def Obligations.RoundConstantsMatchShiftRegister : Prop :=
  rcState 0 = 0 ∧
  (∀ x5 x4 x3 x2 x1 x0 : Bool,
    rcUpdate ((cellOfBits false false x5 x4 x3 x2 x1 x0).setWidth 6) =
      (cellOfBits false false x4 x3 x2 x1 x0 (x5 ^^ x4 ^^ true)).setWidth 6) ∧
  ∀ r : Fin 62, rc[r] = rcState (r.val + 1)

/-- R55: `PT` is a permutation of `0 .. 15`; its first eight entries are in `8 .. 15` and its last eight
are `0 .. 7` in order; sixteen applications to a lane are the identity and no fewer are. -/
def Obligations.LanePermutationOrder : Prop :=
  pt = #v[9, 15, 8, 13, 10, 14, 12, 11, 0, 1, 2, 3, 4, 5, 6, 7] ∧
  (∀ j : Fin 16, ∃ i : Fin 16, pt[i] = j ∧ ∀ i' : Fin 16, pt[i'] = j → i' = i) ∧
  (∀ i : Fin 16, i.val < 8 → 8 ≤ pt[i].val) ∧ (∀ i : Fin 16, 8 ≤ i.val → pt[i].val + 8 = i.val) ∧
  (∀ l : Block, iterate permuteLane 16 l = l) ∧
  (∀ n, 0 < n → n < 16 → ∃ l : Block, iterate permuteLane n l ≠ l)

/-! ## The round function -/

/-- R100: common to the five micro-operations of the round function. Each is total (`AC` on its domain
`RND <= 55`), changes `IS` only, and reads no port. -/
def Obligations.RoundOperationsTouchOnlyIS : Prop :=
  ∀ u ∈ [Instr.sc, .ac, .artx, .sr, .mc], ∀ s : State, (u = .ac → s.pos.rnd.toNat ≤ 55) →
    ∃ b : Block, exec u s = .next { s with is := b } ∧
      ∀ j : Inputs, exec u { s with inputs := j } = .next { s with inputs := j, is := b }

/-- R101: `SC`. -/
def Obligations.SubCellsRule : Prop :=
  IssuedAtStep .sc 0x2 0 ∧
  (∀ s : State, ∃ b : Block, exec .sc s = .next { s with is := b } ∧
    ∀ i : Fin 16, b[i] = s8 s.is[i]) ∧
  s8 0x00 = 0x65 ∧ s8 0xFF = 0xFF ∧ (∀ x, s8 x = 0x00 ↔ x = 0xAC) ∧
  (∀ (a b : Block) (i : Fin 16), a[i] = b[i] → (subCells a)[i] = (subCells b)[i]) ∧
  Function.Bijective subCells ∧
  subCells #v[0x00, 0x11, 0x22, 0x33, 0x44, 0x55, 0x66, 0x77, 0x88, 0x99, 0xAA, 0xBB, 0xCC, 0xDD, 0xEE, 0xFF]
    = #v[0x65, 0x8C, 0xE8, 0x12, 0x8D, 0x64, 0x14, 0xED, 0x96, 0x76, 0x08, 0xFA, 0x97, 0x77, 0x0F, 0xFF]

/-- R102, with the fields of R85: `AC`. -/
def Obligations.AddConstantsRule : Prop :=
  IssuedAtStep .ac 0x3 1 ∧
  (∀ (s : State) (r : Fin 56), s.pos.rnd.toNat = r.val →
    ∃ b : Block, exec .ac s = .next { s with is := b } ∧
      b[0] = s.is[0] ^^^ (rc[r.val] &&& 0x0F).setWidth 8 ∧
      b[4] = s.is[4] ^^^ ((rc[r.val] >>> 4) &&& 0x03).setWidth 8 ∧
      b[8] = s.is[8] ^^^ 0x02 ∧
      (∀ i : Fin 16, i ≠ 0 → i ≠ 4 → i ≠ 8 → b[i] = s.is[i]) ∧
      (b[0] ^^^ s.is[0]) &&& 0xF0 = 0 ∧ (b[4] ^^^ s.is[4]) &&& 0xFC = 0 ∧
      (b[8] ^^^ s.is[8]) &&& 0xFD = 0 ∧
      exec .ac { s with is := b } = .next s) ∧
  (∀ s : State, 56 ≤ s.pos.rnd.toNat →
    exec .ac s = .refused (.roundIndexOutOfRange s.pos.rnd)) ∧
  (∀ r : Fin 56, rc[r.val] ≠ 0) ∧
  (∀ k : BitVec 6, rcC1 k = 0 ↔ k.toNat ≤ 0x0F) ∧
  addConstants 5 (Vector.replicate 16 0) =
    #v[0x0E, 0, 0, 0, 0x03, 0, 0, 0, 0x02, 0, 0, 0, 0, 0, 0, 0]

/-- R103: `ARTX`. -/
def Obligations.AddRoundTweakeyRule : Prop :=
  IssuedAtStep .artx 0x4 2 ∧
  (∀ s : State, ∃ b : Block, exec .artx s = .next { s with is := b } ∧
    (∀ j : Fin 16, j.val < 8 → b[j] = s.is[j] ^^^ s.tk1[j] ^^^ s.tk2[j] ^^^ s.tk3[j]) ∧
    (∀ j : Fin 16, 8 ≤ j.val → b[j] = s.is[j]) ∧
    (∀ j : Fin 16, s.tk1[j] ^^^ s.tk2[j] ^^^ s.tk3[j] = 0 → b[j] = s.is[j])) ∧
  (∀ s : State, s.tk1 = Vector.replicate 16 0 → s.tk2 = Vector.replicate 16 0 →
    s.tk3 = Vector.replicate 16 0 → exec .artx s = .next s) ∧
  (∀ s t : State, (∀ j : Fin 16, j.val < 8 → t.tk1[j] = s.tk1[j] ∧ t.tk2[j] = s.tk2[j] ∧
    t.tk3[j] = s.tk3[j]) → addRoundTweakey t.tk1 t.tk2 t.tk3 s.is = addRoundTweakey s.tk1 s.tk2 s.tk3 s.is) ∧
  addRoundTweakey
    #v[0xDF, 0x88, 0x95, 0x48, 0xCF, 0xC7, 0xEA, 0x52, 0, 0, 0, 0, 0, 0, 0, 0]
    #v[0xAB, 0x58, 0x8A, 0x34, 0xA4, 0x7F, 0x1A, 0xB2, 0, 0, 0, 0, 0, 0, 0, 0]
    #v[0xAB, 0x1A, 0xFA, 0xC2, 0x61, 0x10, 0x12, 0xCD, 0, 0, 0, 0, 0, 0, 0, 0]
    #v[0x10, 0x76, 0x2C, 0x14, 0xB3, 0x30, 0x11, 0x34, 0x7B, 0x8D, 0xB2, 0xF8, 0x55, 0xE7, 0x62, 0x2E] =
    #v[0xCF, 0xBC, 0xC9, 0xAA, 0xB9, 0x98, 0xF3, 0x19, 0x7B, 0x8D, 0xB2, 0xF8, 0x55, 0xE7, 0x62, 0x2E]

/-- R104: `SR`. -/
def Obligations.ShiftRowsRule : Prop :=
  IssuedAtStep .sr 0x8 6 ∧
  (∀ s : State, ∃ b : Block, exec .sr s = .next { s with is := b } ∧
    b = #v[s.is[0], s.is[1], s.is[2], s.is[3], s.is[7], s.is[4], s.is[5], s.is[6],
      s.is[10], s.is[11], s.is[8], s.is[9], s.is[13], s.is[14], s.is[15], s.is[12]] ∧
    ∀ row col : Fin 4, cellAt b row col = cellAt s.is row (col - row)) ∧
  (∀ b : Block, iterate shiftRows 4 b = b) ∧ Function.Bijective shiftRows ∧
  (∀ (b : Block) (col : Fin 4), cellAt (shiftRows (shiftRows b)) 2 col = cellAt b 2 col) ∧
  (∀ row ∈ [(1 : Fin 4), 3], ∃ (b : Block) (col : Fin 4),
    cellAt (shiftRows (shiftRows b)) row col ≠ cellAt b row col) ∧
  (∀ f : Fin 4 → Cell, shiftRows (ofRows fun row _ => f row) = ofRows fun row _ => f row) ∧
  shiftRows #v[0, 1, 2, 3, 4, 5, 6, 7, 8, 9, 10, 11, 12, 13, 14, 15] =
    #v[0, 1, 2, 3, 7, 4, 5, 6, 10, 11, 8, 9, 13, 14, 15, 12]

/-- R105: `MC`, by its closed form. -/
def Obligations.MixColumnsRule : Prop :=
  IssuedAtStep .mc 0x9 7 ∧
  (∀ s : State, ∃ b : Block, exec .mc s = .next { s with is := b } ∧ ∀ c : Fin 4,
    cellAt b 0 c = cellAt s.is 0 c ^^^ cellAt s.is 2 c ^^^ cellAt s.is 3 c ∧
    cellAt b 1 c = cellAt s.is 0 c ∧
    cellAt b 2 c = cellAt s.is 1 c ^^^ cellAt s.is 2 c ∧
    cellAt b 3 c = cellAt s.is 0 c ^^^ cellAt s.is 2 c) ∧
  (∀ (a b : Block) (c : Fin 4), (∀ row, cellAt a row c = cellAt b row c) →
    ∀ row, cellAt (mixColumns a) row c = cellAt (mixColumns b) row c) ∧
  (∀ (a b : Block) (k : Nat), (∀ i : Fin 16, a[i].getLsbD k = b[i].getLsbD k) →
    ∀ i : Fin 16, (mixColumns a)[i].getLsbD k = (mixColumns b)[i].getLsbD k) ∧
  (∀ b, unmixColumns (mixColumns b) = b) ∧ (∀ b, mixColumns (unmixColumns b) = b) ∧
  mixColumns (Vector.replicate 16 0) = Vector.replicate 16 0 ∧
  mixColumns #v[0, 1, 2, 3, 4, 5, 6, 7, 8, 9, 10, 11, 12, 13, 14, 15] =
    #v[4, 5, 6, 7, 0, 1, 2, 3, 0x0C, 0x0C, 0x0C, 0x0C, 8, 8, 8, 8]

/-- R106: the matrix form and the closed form are the same function. -/
def Obligations.MixColumnsMatrixFormEqual : Prop := ∀ b : Block, mixColumnsMatrix b = mixColumns b

/-- Derived from R107 (a), (b), (c): `AC` and `ARTX` commute; each of `SR`, `MC` commutes with each of
`TKP`, `LF2`, `LF3`; `SC` does not commute with `AC` or `ARTX`, nor `SR` with `MC`. -/
def Obligations.HarmlessAndHarmfulReorderings : Prop :=
  (∀ s, andThen (exec .ac s) (exec .artx) = andThen (exec .artx s) (exec .ac)) ∧
  (∀ u ∈ [Instr.sr, .mc], ∀ v ∈ [Instr.tkp, .lf2, .lf3], ∀ s,
    andThen (exec u s) (exec v) = andThen (exec v s) (exec u)) ∧
  (∀ uv ∈ [(Instr.sc, Instr.ac), (.sc, .artx), (.sr, .mc)], ∃ s : State, s.pos.legal = true ∧
    andThen (exec uv.1 s) (exec uv.2) ≠ andThen (exec uv.2 s) (exec uv.1))

/-- R109: `SR` and `MC` are linear, `AC` and `ARTX` are affine, and `SC` is not affine. -/
def Obligations.OnlySubCellsIsNonLinear : Prop :=
  (∀ a b, shiftRows (xorBlock a b) = xorBlock (shiftRows a) (shiftRows b)) ∧
  (∀ a b, mixColumns (xorBlock a b) = xorBlock (mixColumns a) (mixColumns b)) ∧
  (∀ r a b, addConstants r (xorBlock a b) = xorBlock (addConstants r a) b) ∧
  (∀ k1 k2 k3 a b,
    addRoundTweakey k1 k2 k3 (xorBlock a b) = xorBlock (addRoundTweakey k1 k2 k3 a) b) ∧
  (∃ a b, subCells (xorBlock a b) ≠
    xorBlock (xorBlock (subCells a) (subCells b)) (subCells (Vector.replicate 16 0)))

/-! ## The tweakey schedule -/

/-- R121: `TKP`. -/
def Obligations.LanePermutationRule : Prop :=
  IssuedAtStep .tkp 0x5 3 ∧
  (∀ s : State, ∃ l1 l2 l3 : Block, exec .tkp s = .next { s with tk1 := l1, tk2 := l2, tk3 := l3 } ∧
    (∀ i : Fin 16, l1[i] = s.tk1[pt[i]] ∧ l2[i] = s.tk2[pt[i]] ∧ l3[i] = s.tk3[pt[i]]) ∧
    l1.toList.Perm s.tk1.toList ∧ l2.toList.Perm s.tk2.toList ∧ l3.toList.Perm s.tk3.toList) ∧
  (∀ x : Cell, permuteLane (Vector.replicate 16 x) = Vector.replicate 16 x) ∧
  permuteLane #v[0, 1, 2, 3, 4, 5, 6, 7, 8, 9, 10, 11, 12, 13, 14, 15] =
    #v[0x09, 0x0F, 0x08, 0x0D, 0x0A, 0x0E, 0x0C, 0x0B, 0, 1, 2, 3, 4, 5, 6, 7]

/-- R122: `LF2`. Each of cells 0 to 7 of `TK2` is shifted on its own, bit 7 dropped after its use. -/
def Obligations.FeedbackShift2Rule : Prop :=
  IssuedAtStep .lf2 0x6 4 ∧
  (∀ s : State, ∃ b : Block, exec .lf2 s = .next { s with tk2 := b } ∧
    (∀ j : Fin 16, j.val < 8 → b[j].getLsbD 0 = (s.tk2[j].getLsbD 7 ^^ s.tk2[j].getLsbD 5) ∧
      ∀ k, k < 7 → b[j].getLsbD (k + 1) = s.tk2[j].getLsbD k) ∧
    (∀ j : Fin 16, 8 ≤ j.val → b[j] = s.tk2[j])) ∧
  lf2Cell 0x00 = 0x00 ∧
  [0x80, 0x20, 0xA0, 0x01, 0xFF, 0x00, 0x5A, 0xC3].map lf2Cell =
    [0x01, 0x41, 0x40, 0x02, 0xFE, 0x00, 0xB4, 0x87]

/-- R123: `LF3`. Each of cells 0 to 7 of `TK3` is shifted on its own, logically: the old bit 7 moves to
bit 6 and is not copied. -/
def Obligations.FeedbackShift3Rule : Prop :=
  IssuedAtStep .lf3 0x7 5 ∧
  (∀ s : State, ∃ b : Block, exec .lf3 s = .next { s with tk3 := b } ∧
    (∀ j : Fin 16, j.val < 8 → b[j].getLsbD 7 = (s.tk3[j].getLsbD 0 ^^ s.tk3[j].getLsbD 6) ∧
      ∀ k, k < 7 → b[j].getLsbD k = s.tk3[j].getLsbD (k + 1)) ∧
    (∀ j : Fin 16, 8 ≤ j.val → b[j] = s.tk3[j])) ∧
  lf3Cell 0x00 = 0x00 ∧
  [0x01, 0x40, 0x41, 0x80, 0xFF, 0x00, 0x5A, 0xC3].map lf3Cell =
    [0x80, 0xA0, 0x20, 0x40, 0x7F, 0x00, 0xAD, 0x61]

/-- R124: the two cell functions are linear bijections, inverse to each other. -/
def Obligations.FeedbackCellFunctions : Prop :=
  (∀ x : Cell, lf2Cell x = cellOfBits x[6] x[5] x[4] x[3] x[2] x[1] x[0] (x[7] ^^ x[5])) ∧
  (∀ x : Cell, lf3Cell x = cellOfBits (x[0] ^^ x[6]) x[7] x[6] x[5] x[4] x[3] x[2] x[1]) ∧
  (∀ a b, lf2Cell (a ^^^ b) = lf2Cell a ^^^ lf2Cell b) ∧
  (∀ a b, lf3Cell (a ^^^ b) = lf3Cell a ^^^ lf3Cell b) ∧
  (∀ x, lf3Cell (lf2Cell x) = x) ∧ (∀ x, lf2Cell (lf3Cell x) = x) ∧
  [0x00, 0x01, 0x20, 0x40, 0x41, 0x80, 0xA0, 0x5A, 0xC3, 0x7F, 0xFF].map lf2Cell =
    [0x00, 0x02, 0x41, 0x80, 0x82, 0x01, 0x40, 0xB4, 0x87, 0xFF, 0xFE] ∧
  [0x00, 0x01, 0x20, 0x40, 0x41, 0x80, 0xA0, 0x5A, 0xC3, 0x7F, 0xFF].map lf3Cell =
    [0x00, 0x80, 0x10, 0xA0, 0x20, 0x40, 0x50, 0xAD, 0x61, 0x3F, 0x7F]

/-- R125: what one advance `TKP ; LF2 ; LF3` does to each lane, cell by cell, and to nothing else; each
cell changes between the top half and the bottom half. -/
def Obligations.LaneAdvanceTable : Prop :=
  (∀ i : Fin 16, i.val < 8 ↔ 8 ≤ pt[i].val) ∧
  ∀ s : State, ∃ l1 l2 l3 : Block,
    execPseudo .tkadv s = .next { s with tk1 := l1, tk2 := l2, tk3 := l3 } ∧
    ∀ x ∈ [(l1, s.tk1, id), (l2, s.tk2, lf2Cell), (l3, s.tk3, lf3Cell)],
      let new := x.1
      let old := x.2.1
      let f := x.2.2
      new = #v[f old[9], f old[15], f old[8], f old[13], f old[10], f old[14], f old[12], f old[11],
        old[0], old[1], old[2], old[3], old[4], old[5], old[6], old[7]]

/-- R126: the lanes as `ARTX` of round `r` sees them. They are the loaded slices advanced `r` times,
whatever the plaintext and whatever `IS` held. -/
def Obligations.LanesInRoundAreAdvances : Prop :=
  ∀ (s : State) (p : Block) (k : TweakeyBlock), StartsRun s p k → ∀ r : Fin 56,
    ∃ t, runSteps (1 + 8 * r.val + 2) s = .next t ∧ t.pos = ⟨.run, BitVec.ofNat 6 r.val, 2⟩ ∧
      t.tk1 = iterate permuteLane r.val (laneSlice 0 k) ∧
      t.tk2 = iterate (fun l => onTop lf2Cell (permuteLane l)) r.val (laneSlice 1 k) ∧
      t.tk3 = iterate (fun l => onTop lf3Cell (permuteLane l)) r.val (laneSlice 2 k)

/-- R128: the lanes after a run, cell by cell, with the map `Q`; and the facts about 28 and 30
applications of the feedback shifts. -/
def Obligations.LanesAfterRun : Prop :=
  let q : Vector (Fin 16) 16 := #v[5, 6, 3, 2, 7, 0, 1, 4, 13, 14, 11, 10, 15, 8, 9, 12]
  (∀ (s : State) (p : Block) (k : TweakeyBlock), StartsRun s p k →
    ∃ t, runSteps 450 s = .next t ∧ ∀ i : Fin 16,
      t.tk1[i] = k[q[i].val] ∧
      t.tk2[i] = iterate lf2Cell 28 k[16 + q[i].val] ∧
      t.tk3[i] = iterate lf3Cell 28 k[32 + q[i].val]) ∧
  (∀ (s t : State) (p : Block), StartsRun s p (Vector.replicate 48 0) → runSteps 450 s = .next t →
    t.tk1 = Vector.replicate 16 0 ∧ t.tk2 = Vector.replicate 16 0 ∧ t.tk3 = Vector.replicate 16 0) ∧
  (∃ k : TweakeyBlock, ∀ (s t : State) (p : Block), StartsRun s p k → runSteps 450 s = .next t →
    t.tk1 ≠ laneSlice 0 k) ∧
  (∀ l, iterate permuteLane 56 l = iterate permuteLane 8 l) ∧
  (∀ x, iterate lf2Cell 30 x = x ∧ iterate lf3Cell 30 x = x) ∧
  (∀ x, iterate lf2Cell 28 x = lf3Cell (lf3Cell x) ∧ iterate lf3Cell 28 x = lf2Cell (lf2Cell x))

/-! ## The driver -/

/-- R142: `IDLE` changes nothing, is issued in the waiting phases with `start = 0`, and keeps every
register, both flags and the ciphertext for as long as the host leaves `start` and `rst` at 0; no
other micro-operation is issued in two steps running. -/
def Obligations.IdleRule : Prop :=
  encode .idle = 0x0 ∧
  (∀ p start, decode (issuedCode p start) = .ok .idle ↔ waiting p.phase = true ∧ start = false) ∧
  (∀ s, exec .idle s = .next s) ∧
  (∀ (s t : State) (u : Instr) (start : Bool), s.inputs.rst = false →
    decode (issuedCode s.pos s.inputs.start) = .ok u → u ≠ .idle → step s = .next t →
    decode (issuedCode t.pos start) ≠ .ok u) ∧
  (∀ (s : State) (n : Nat), waiting s.pos.phase = true →
    (∀ k, k < n → (inputsAfter k s).rst = false ∧ (inputsAfter k s).start = false) →
    ∃ t, runSteps n s = .next t ∧ SameRegisters t s ∧ busy t = busy s ∧ done t = done s ∧
      ctOut t = ctOut s)

/-- R143: `LOAD`. All 64 bytes in one step, `CT` not written; the step that executes it goes to
`(RUN, 0, 0)` with `busy = 1` and `done = 0`. -/
def Obligations.LoadRule : Prop :=
  encode .load = 0x1 ∧
  (∀ p start, decode (issuedCode p start) = .ok .load ↔ waiting p.phase = true ∧ start = true) ∧
  (∀ s : State, ∃ b l1 l2 l3 : Block,
    exec .load s = .next { s with is := b, tk1 := l1, tk2 := l2, tk3 := l3 } ∧
    ∀ i : Fin 16, b[i] = s.inputs.ptIn[i] ∧ l1[i] = s.inputs.tkIn[i.val] ∧
      l2[i] = s.inputs.tkIn[16 + i.val] ∧ l3[i] = s.inputs.tkIn[32 + i.val]) ∧
  (∀ s : State, waiting s.pos.phase = true → s.inputs.rst = false → s.inputs.start = true →
    ∃ t, step s = .next t ∧ datapath t = loaded s.inputs.ptIn s.inputs.tkIn ∧ t.ct = s.ct ∧
      t.pos = ⟨.run, 0, 0⟩ ∧ busy t = true ∧ done t = false)

/-- R146: `FIN`. `CT` receives `IS` unchanged, nothing is cleared; the step that executes it goes to
`PHASE = DONE` with `busy = 0` and `done = 1`. -/
def Obligations.FinRule : Prop :=
  encode .fin = 0xA ∧
  (∀ p start, decode (issuedCode p start) = .ok .fin ↔ p.phase = .fin) ∧
  (∀ s : State, ∃ b : Block, exec .fin s = .next { s with ct := b } ∧
    ∀ i : Fin 16, b[i] = s.is[i]) ∧
  (∀ s : State, s.pos.phase = .fin → s.inputs.rst = false →
    ∃ t, step s = .next t ∧ t.ct = s.is ∧ datapath t = datapath s ∧ t.pos.phase = .done ∧
      busy t = false ∧ done t = true ∧ ctOut t = .ok s.is)

/-- R145: the eight steps of round `r` are `ROUND r` as a function; all 56 rounds are alike, and
only the position after them differs for the last. -/
def Obligations.EightStepsAreOneRound : Prop :=
  ∀ (s : State) (r : Fin 56), s.pos = ⟨.run, BitVec.ofNat 6 r.val, 0⟩ → NoReset s 0 8 →
    ∃ t, runSteps 8 s = .next t ∧ datapath t = roundFunction r (datapath s) ∧ t.ct = s.ct ∧
      t.pos = if r.val < 55 then ⟨.run, BitVec.ofNat 6 (r.val + 1), 0⟩ else ⟨.fin, 55, 7⟩

/-- R153: what a run delivers. -/
def Obligations.RunDeliversCiphertext : Prop :=
  ∀ (s : State) (p : Block) (k : TweakeyBlock), StartsRun s p k →
    (∀ n, 1 ≤ n → n ≤ 449 → ∃ t, runSteps n s = .next t ∧ busy t = true ∧ done t = false) ∧
    (∀ n, (∀ j, 450 ≤ j → j < 450 + n →
        (inputsAfter j s).rst = false ∧ (inputsAfter j s).start = false) →
      ∃ t, runSteps (450 + n) s = .next t ∧ t.pos.phase = .done ∧ done t = true ∧
        t.ct = encrypt p k ∧ ctOut t = .ok (encrypt p k))

/-- R92, with R145 and R152: each pseudo-operation is the composition of its parts in the order written;
`ENCRYPT` leaves the lanes and `IS` of 56 rounds, and `ENCRYPT(P, K)` in `CT`; `ROUND r` has a meaning
exactly for `r = 0 .. 55`; and the micro-operations of each, in order. -/
def Obligations.PseudoOperations : Prop :=
  (∀ s, execPseudo .tkadv s =
    andThen (andThen (exec .tkp s) (exec .lf2)) (exec .lf3)) ∧
  (∀ s, execPseudo .art s = andThen (exec .artx s) (execPseudo .tkadv)) ∧
  (∀ (s : State) (r : BitVec 6), execPseudo (.round r) s =
    execSeq [.sc, .ac, .artx, .tkp, .lf2, .lf3, .sr, .mc] { s with pos := { s.pos with rnd := r } }) ∧
  (∀ (s : State) (r : Fin 56), ∃ t, execPseudo (.round (BitVec.ofNat 6 r.val)) s = .next t ∧
    datapath t = roundFunction r (datapath s) ∧ t.ct = s.ct) ∧
  (∀ (s : State) (r : BitVec 6), PseudoOp.wellFormed (.round r) = false →
    execPseudo (.round r) s = .refused (.roundIndexOutOfRange r)) ∧
  (∀ s : State, execPseudo .encrypt s =
    andThen ((List.range 56).foldl
      (fun x r => andThen x (execPseudo (.round (BitVec.ofNat 6 r)))) (exec .load s)) (exec .fin)) ∧
  (∀ s : State, ∃ t, execPseudo .encrypt s = .next t ∧
    datapath t = rounds 56 (Nat.le_refl 56) (loaded s.inputs.ptIn s.inputs.tkIn) ∧
    t.ct = encrypt s.inputs.ptIn s.inputs.tkIn) ∧
  expansion .tkadv = [.tkp, .lf2, .lf3] ∧ expansion .art = [.artx, .tkp, .lf2, .lf3] ∧
  (∀ r, expansion (.round r) = [.sc, .ac, .artx, .tkp, .lf2, .lf3, .sr, .mc]) ∧
  expansion .encrypt = [.load] ++ (List.range 56).flatMap
    (fun r => expansion (.round (BitVec.ofNat 6 r))) ++ [.fin] ∧
  (expansion .encrypt).length = 450

/-- Derived from R19: from every legal position in `RUN` or `FIN`, if `rst` stays 0, `done` becomes 1
after exactly the steps that are left, at most 449. -/
def Obligations.EngineCannotHang : Prop :=
  ∀ s : State, s.pos.legal = true → busy s = true →
    let left := match s.pos.phase with
      | .run => 8 * (55 - s.pos.rnd.toNat) + (8 - s.pos.stp.toNat) + 1
      | .fin => 1
      | .idle | .done => 0
    NoReset s 0 left → left ≤ 449 ∧
      (∃ t, runSteps left s = .next t ∧ done t = true) ∧
      (∀ n, n < left → ∃ t, runSteps n s = .next t ∧ done t = false)

/-! ## Whole-machine rules -/

/-- Derived from R82: the implicit operands, tables left out. A micro-operation changes no place
outside its "writes" column and not the sequencer registers, and what it writes depends on no place
outside its "reads" column. -/
def Obligations.ImplicitOperands : Prop :=
  (∀ (u : Instr) (s t : State), exec u s = .next t →
    (∀ l : Loc, writes u l = false → look t l = look s l) ∧
    t.pos = s.pos ∧ t.inputs = s.inputs ∧ t.schedule = s.schedule) ∧
  (∀ (u : Instr) (s s' t t' : State), exec u s = .next t → exec u s' = .next t' →
    (∀ l : Loc, reads u l = true → look s l = look s' l) →
    ∀ l : Loc, writes u l = true → look t l = look t' l)

/-- R170: no micro-operation raises an exception, in any state; every one completes in every state, `AC`
in every state with `RND <= 55`. -/
def Obligations.EveryMicroOperationCompletes : Prop :=
  (∀ (u : Instr) (s : State) (e : Fault), exec u s ≠ .fault e ∧ step s ≠ .fault e) ∧
  ∀ (u : Instr) (s : State), (u = .ac → s.pos.rnd.toNat ≤ 55) → ∃ t, exec u s = .next t

/-- Derived from R35, R154, R201: nothing the engine does or shows depends on a register that
nothing has written. Two states that agree on all that can matter stay so at every step, and show
the same on every output port; while the engine waits, the datapath may hold anything. -/
def Obligations.UnwrittenRegistersNeverMatter : Prop :=
  (∀ (s t : State), Agree s t → busy s = busy t ∧ done s = done t ∧ ctOut s = ctOut t) ∧
  (∀ (s t s' : State), Agree s t → step s = .next s' → ∃ t', step t = .next t' ∧ Agree s' t') ∧
  (∀ (s t s' : State) (n : Nat), Agree s t → runSteps n s = .next s' →
    ∃ t', runSteps n t = .next t' ∧ Agree s' t')

/-- Derived from R68, R182, with engines that step one at a time (notes/assumptions/10.md). A step
of one engine leaves every other as it is and depends on no other, and two engines' steps can be
taken in either order. -/
def Obligations.EnginesAreIndependent : Prop :=
  (∀ (n : Nat) (sys sys' : Vector State n) (k j : Fin n), stepEngine k sys = .next sys' → j ≠ k →
    sys'[j] = sys[j]) ∧
  (∀ (n : Nat) (sys sys' a : Vector State n) (k : Fin n), sys[k] = sys'[k] →
    stepEngine k sys = .next a → ∃ b, stepEngine k sys' = .next b ∧ a[k] = b[k]) ∧
  (∀ (n : Nat) (sys a b : Vector State n) (k j : Fin n), j ≠ k →
    stepEngine k sys = .next a → stepEngine j sys = .next b →
    ∃ c, stepEngine j a = .next c ∧ stepEngine k b = .next c)

/-- Derived from R157, for one of the implementations it permits (notes/assumptions/11.md): the
engine that does one round per clock is a correct implementation. In 58 clocks from `start` it shows
`ENCRYPT(P, K)` with `done = 1`, and shows `done = 1` at no clock between. -/
def Obligations.FusedEngineDeliversCiphertext : Prop :=
  ∀ (f : FusedState) (i : Inputs) (is : List Inputs), waiting f.phase = true →
    i.rst = false → i.start = true → is.length = 57 → (∀ j ∈ is, j.rst = false) →
    (fusedRun (i :: is) f).phase = .done ∧
    (fusedRun (i :: is) f).ct = encrypt i.ptIn i.tkIn ∧
    ∀ n, n < 57 → waiting (fusedRun (i :: is.take n) f).phase = false
end

