-- ==== Sys2Proof/Laws/Ops.lean ====
section
/-! SUPPORT. One spec lemma per block or lane operation: what each cell of its result is. -/

namespace Sys2Proof.Machine

@[simp] theorem xorBlock_getElem (a b : Block) (i : Nat) (h : i < 16) :
    (xorBlock a b)[i] = a[i] ^^^ b[i] := by simp [xorBlock]

@[simp] theorem gather_getElem (t : Vector (Fin 16) 16) (b : Block) (i : Nat) (h : i < 16) :
    (gather t b)[i] = b[t[i]] := by simp [gather]

@[simp] theorem subCells_getElem (b : Block) (i : Nat) (h : i < 16) :
    (subCells b)[i] = s8 b[i] := by simp [subCells]

theorem onTop_getElem (f : Cell → Cell) (b : Block) (i : Nat) (h : i < 16) :
    (onTop f b)[i] = if i < 8 then f b[i] else b[i] := by simp [onTop, Config.topCells]

theorem addConstant_getElem (k : BitVec 6) (b : Block) (i : Nat) (h : i < 16) :
    (addConstant k b)[i] =
      if i = 0 then b[i] ^^^ rcC0 k else if i = 4 then b[i] ^^^ rcC1 k
      else if i = 8 then b[i] ^^^ Config.c2 else b[i] := by simp [addConstant]

theorem addRoundTweakey_getElem (k1 k2 k3 b : Block) (i : Nat) (h : i < 16) :
    (addRoundTweakey k1 k2 k3 b)[i] =
      if i < 8 then b[i] ^^^ k1[i] ^^^ k2[i] ^^^ k3[i] else b[i] := by
  simp [addRoundTweakey, Config.topCells]

@[simp] theorem laneSlice_getElem (k : Fin 3) (t : TweakeyBlock) (i : Nat) (h : i < 16) :
    (laneSlice k t)[i] = t[16 * k.val + i] := by simp [laneSlice]

/-- Blocks given by rows, read at `(row, col)`. -/
@[simp] theorem cellAt_ofRows (f : Fin 4 → Fin 4 → Cell) (row col : Fin 4) :
    cellAt (ofRows f) row col = f row col := by
  have h1 : (4 * row.val + col.val) / 4 = row.val := by omega
  have h2 : (4 * row.val + col.val) % 4 = col.val := by omega
  simp [cellAt, ofRows, h1, h2]

/-- Two blocks with the same cells at every `(row, col)` are equal. -/
theorem block_ext_cellAt {a b : Block} (h : ∀ row col, cellAt a row col = cellAt b row col) :
    a = b := by
  apply Vector.ext
  intro i hi
  have e : 4 * (i / 4) + i % 4 = i := by omega
  have := h ⟨i / 4, by omega⟩ ⟨i % 4, by omega⟩
  simpa [cellAt, e] using this

@[simp] theorem iterate_zero {α : Type} (f : α → α) (x : α) : iterate f 0 x = x := rfl
theorem iterate_succ {α : Type} (f : α → α) (n : Nat) (x : α) :
    iterate f (n + 1) x = f (iterate f n x) := rfl

theorem iterate_add {α : Type} (f : α → α) (m n : Nat) (x : α) :
    iterate f (m + n) x = iterate f m (iterate f n x) := by
  induction m with
  | zero => simp
  | succ m ih => rw [Nat.succ_add, iterate_succ, iterate_succ, ih]

@[simp] theorem andThen_next (s : State) (f : State → Result) :
    andThen (.next s : Result) f = f s := rfl
@[simp] theorem andThen_refused (r : Refusal) (f : State → Result) :
    andThen (.refused r : Result) f = .refused r := rfl

/-! ## Rounds -/

theorem rounds_succ (n : Nat) (h : n + 1 ≤ 56) (d : Datapath) :
    rounds (n + 1) h d = roundFunction ⟨n, h⟩ (rounds n (by omega) d) := rfl

@[simp] theorem roundFunction_tk1 (r : Fin 56) (d : Datapath) :
    (roundFunction r d).tk1 = permuteLane d.tk1 := rfl
@[simp] theorem roundFunction_tk2 (r : Fin 56) (d : Datapath) :
    (roundFunction r d).tk2 = onTop lf2Cell (permuteLane d.tk2) := rfl
@[simp] theorem roundFunction_tk3 (r : Fin 56) (d : Datapath) :
    (roundFunction r d).tk3 = onTop lf3Cell (permuteLane d.tk3) := rfl

/-- The lanes after `n` rounds, whatever `IS` held. -/
theorem rounds_lanes (n : Nat) (h : n ≤ 56) (d : Datapath) :
    (rounds n h d).tk1 = iterate permuteLane n d.tk1 ∧
    (rounds n h d).tk2 = iterate (fun l => onTop lf2Cell (permuteLane l)) n d.tk2 ∧
    (rounds n h d).tk3 = iterate (fun l => onTop lf3Cell (permuteLane l)) n d.tk3 := by
  induction n with
  | zero => exact ⟨rfl, rfl, rfl⟩
  | succ n ih =>
    obtain ⟨h1, h2, h3⟩ := ih (by omega)
    simp only [rounds_succ, roundFunction_tk1, roundFunction_tk2, roundFunction_tk3, iterate_succ,
      h1, h2, h3, and_self]

/-- `execRounds n` runs `ROUND 0` to `ROUND (n - 1)` in that order. -/
theorem execRounds_eq_foldl (n : Nat) (s : State) :
    execRounds n s =
      (List.range n).foldl (fun x r => andThen x (execPseudo (.round (BitVec.ofNat 6 r)))) (.next s) := by
  induction n with
  | zero => rfl
  | succ n ih => rw [List.range_succ, List.foldl_append, ← ih]; rfl

/-- `ENCRYPT`'s rounds, without unfolding `rounds` at a numeral. -/
theorem encrypt_eq (p : Block) (k : TweakeyBlock) :
    encrypt p k = (rounds 56 (Nat.le_refl 56) (loaded p k)).is := rfl

/-- The parts of `ENCRYPT`, without unfolding `execRounds` at a numeral. -/
theorem execPseudo_encrypt (s : State) : execPseudo .encrypt s =
    andThen (andThen (exec .load s) (execRounds 56)) (exec .fin) := rfl

end Sys2Proof.Machine
end

