-- ==== Sys2Proof/Laws/State.lean ====
section
/-! SUPPORT. One lemma per field for each named update of the state, so that no proof unfolds a record update. -/

namespace Sys2Proof.Machine

/-! `applyReset` changes the position only. -/

@[simp] theorem applyReset_is (s : State) : (applyReset s).is = s.is := rfl
@[simp] theorem applyReset_tk1 (s : State) : (applyReset s).tk1 = s.tk1 := rfl
@[simp] theorem applyReset_tk2 (s : State) : (applyReset s).tk2 = s.tk2 := rfl
@[simp] theorem applyReset_tk3 (s : State) : (applyReset s).tk3 = s.tk3 := rfl
@[simp] theorem applyReset_ct (s : State) : (applyReset s).ct = s.ct := rfl
@[simp] theorem applyReset_pos (s : State) : (applyReset s).pos = Position.idle0 := rfl
@[simp] theorem applyReset_inputs (s : State) : (applyReset s).inputs = s.inputs := rfl
@[simp] theorem applyReset_schedule (s : State) : (applyReset s).schedule = s.schedule := rfl

/-! `drive` changes the ports and the schedule only. -/

@[simp] theorem drive_is (s : State) : (drive s).is = s.is := by unfold drive; split <;> rfl
@[simp] theorem drive_tk1 (s : State) : (drive s).tk1 = s.tk1 := by unfold drive; split <;> rfl
@[simp] theorem drive_tk2 (s : State) : (drive s).tk2 = s.tk2 := by unfold drive; split <;> rfl
@[simp] theorem drive_tk3 (s : State) : (drive s).tk3 = s.tk3 := by unfold drive; split <;> rfl
@[simp] theorem drive_ct (s : State) : (drive s).ct = s.ct := by unfold drive; split <;> rfl
@[simp] theorem drive_pos (s : State) : (drive s).pos = s.pos := by unfold drive; split <;> rfl

/-- What the host drives next depends on nothing in the machine. -/
theorem drive_host_congr {s t : State} (hi : s.inputs = t.inputs) (hs : s.schedule = t.schedule) :
    (drive s).inputs = (drive t).inputs ∧ (drive s).schedule = (drive t).schedule := by
  unfold drive
  rw [← hs]
  split <;> simp_all

@[simp] theorem datapath_drive (s : State) : datapath (drive s) = datapath s := by simp [datapath]
@[simp] theorem busy_drive (s : State) : busy (drive s) = busy s := by simp [busy]
@[simp] theorem done_drive (s : State) : done (drive s) = done s := by simp [done]
@[simp] theorem ctOut_drive (s : State) : ctOut (drive s) = ctOut s := by simp [ctOut]

/-! `quietControls` changes two port levels, `placedAt` those and `PHASE`, `STEP`. -/

@[simp] theorem quietControls_is (s : State) : s.quietControls.is = s.is := rfl
@[simp] theorem quietControls_tk1 (s : State) : s.quietControls.tk1 = s.tk1 := rfl
@[simp] theorem quietControls_tk2 (s : State) : s.quietControls.tk2 = s.tk2 := rfl
@[simp] theorem quietControls_tk3 (s : State) : s.quietControls.tk3 = s.tk3 := rfl
@[simp] theorem quietControls_ct (s : State) : s.quietControls.ct = s.ct := rfl
@[simp] theorem quietControls_pos (s : State) : s.quietControls.pos = s.pos := rfl
@[simp] theorem quietControls_inputs (s : State) :
    s.quietControls.inputs = { s.inputs with rst := false, start := false } := rfl
@[simp] theorem quietControls_schedule (s : State) : s.quietControls.schedule = s.schedule := rfl

@[simp] theorem placedAt_is (s : State) (p k) : (s.placedAt p k).is = s.is := rfl
@[simp] theorem placedAt_tk1 (s : State) (p k) : (s.placedAt p k).tk1 = s.tk1 := rfl
@[simp] theorem placedAt_tk2 (s : State) (p k) : (s.placedAt p k).tk2 = s.tk2 := rfl
@[simp] theorem placedAt_tk3 (s : State) (p k) : (s.placedAt p k).tk3 = s.tk3 := rfl
@[simp] theorem placedAt_ct (s : State) (p k) : (s.placedAt p k).ct = s.ct := rfl
@[simp] theorem placedAt_pos (s : State) (p k) :
    (s.placedAt p k).pos = { s.pos with phase := p, stp := k } := rfl
@[simp] theorem placedAt_inputs (s : State) (p k) :
    (s.placedAt p k).inputs = { s.inputs with rst := false, start := false } := rfl
@[simp] theorem placedAt_schedule (s : State) (p k) : (s.placedAt p k).schedule = s.schedule := rfl

/-! The ports in later steps. -/

@[simp] theorem inputsAfter_zero (s : State) : inputsAfter 0 s = s.inputs := rfl
theorem inputsAfter_succ (n : Nat) (s : State) : inputsAfter (n + 1) s = inputsAfter n (drive s) := rfl

/-- Later port levels depend on the host's fields alone. -/
theorem inputsAfter_congr (n : Nat) : ∀ {s t : State}, s.inputs = t.inputs → s.schedule = t.schedule →
    inputsAfter n s = inputsAfter n t := by
  induction n with
  | zero => intro s t hi _; simpa using hi
  | succ n ih =>
    intro s t hi hs
    obtain ⟨h1, h2⟩ := drive_host_congr hi hs
    exact ih h1 h2

/-- With nothing scheduled the ports keep their levels. -/
theorem inputsAfter_of_schedule_nil {s : State} (h : s.schedule = []) (n : Nat) :
    inputsAfter n s = s.inputs := by
  have hd : drive s = s := by unfold drive; rw [h]
  induction n with
  | zero => rfl
  | succ n ih => rw [inputsAfter_succ, hd, ih]

end Sys2Proof.Machine
end

