-- ==== Sys2Proof/Laws/Exec.lean ====
section
/-! SUPPORT. What each micro-operation does, and what none of them does. -/

namespace Sys2Proof.Machine

theorem exec_idle (s : State) : exec .idle s = .next s := rfl
theorem exec_load (s : State) : exec .load s = .next { s with
    is := s.inputs.ptIn, tk1 := laneSlice 0 s.inputs.tkIn, tk2 := laneSlice 1 s.inputs.tkIn,
    tk3 := laneSlice 2 s.inputs.tkIn } := rfl
theorem exec_sc (s : State) : exec .sc s = .next { s with is := subCells s.is } := rfl
theorem exec_artx (s : State) :
    exec .artx s = .next { s with is := addRoundTweakey s.tk1 s.tk2 s.tk3 s.is } := rfl
theorem exec_tkp (s : State) : exec .tkp s = .next { s with
    tk1 := permuteLane s.tk1, tk2 := permuteLane s.tk2, tk3 := permuteLane s.tk3 } := rfl
theorem exec_lf2 (s : State) : exec .lf2 s = .next { s with tk2 := onTop lf2Cell s.tk2 } := rfl
theorem exec_lf3 (s : State) : exec .lf3 s = .next { s with tk3 := onTop lf3Cell s.tk3 } := rfl
theorem exec_sr (s : State) : exec .sr s = .next { s with is := shiftRows s.is } := rfl
theorem exec_mc (s : State) : exec .mc s = .next { s with is := mixColumns s.is } := rfl
theorem exec_fin (s : State) : exec .fin s = .next { s with ct := s.is } := rfl

/-- `AC` in a round that exists. -/
theorem exec_ac_of_lt {s : State} (h : s.pos.rnd.toNat < 56) :
    exec .ac s = .next { s with is := addConstants ⟨s.pos.rnd.toNat, h⟩ s.is } := by
  simp [exec, execAc, h]

/-- `AC` in a round that does not exist. -/
theorem exec_ac_of_ge {s : State} (h : 56 ≤ s.pos.rnd.toNat) :
    exec .ac s = .refused (.roundIndexOutOfRange s.pos.rnd) := by
  simp [exec, execAc, Nat.not_lt.mpr h]

/-- Everything a micro-operation can do to the sequencer and the host's fields: nothing. -/
theorem exec_frame {u : Instr} {s t : State} (h : exec u s = .next t) :
    t.pos = s.pos ∧ t.inputs = s.inputs ∧ t.schedule = s.schedule := by
  cases u with
  | ac =>
    by_cases hr : s.pos.rnd.toNat < 56
    · rw [exec_ac_of_lt hr] at h; cases h; simp
    · rw [exec_ac_of_ge (Nat.not_lt.mp hr)] at h; cases h
  | idle => rw [exec_idle] at h; cases h; exact ⟨rfl, rfl, rfl⟩
  | load => rw [exec_load] at h; cases h; exact ⟨rfl, rfl, rfl⟩
  | sc => rw [exec_sc] at h; cases h; exact ⟨rfl, rfl, rfl⟩
  | artx => rw [exec_artx] at h; cases h; exact ⟨rfl, rfl, rfl⟩
  | tkp => rw [exec_tkp] at h; cases h; exact ⟨rfl, rfl, rfl⟩
  | lf2 => rw [exec_lf2] at h; cases h; exact ⟨rfl, rfl, rfl⟩
  | lf3 => rw [exec_lf3] at h; cases h; exact ⟨rfl, rfl, rfl⟩
  | sr => rw [exec_sr] at h; cases h; exact ⟨rfl, rfl, rfl⟩
  | mc => rw [exec_mc] at h; cases h; exact ⟨rfl, rfl, rfl⟩
  | fin => rw [exec_fin] at h; cases h; exact ⟨rfl, rfl, rfl⟩

/-- A micro-operation completes or is `AC` in a round that does not exist. -/
theorem exec_next_or (u : Instr) (s : State) :
    (∃ t, exec u s = .next t) ∨ (u = .ac ∧ 56 ≤ s.pos.rnd.toNat) := by
  cases u with
  | ac =>
    by_cases hr : s.pos.rnd.toNat < 56
    · exact .inl ⟨_, exec_ac_of_lt hr⟩
    · exact .inr ⟨rfl, Nat.not_lt.mp hr⟩
  | idle | load | sc | artx | tkp | lf2 | lf3 | sr | mc | fin => exact .inl ⟨_, rfl⟩

end Sys2Proof.Machine
end

