-- ==== Sys2Proof/Laws/PerInstr.lean ====
section
/-! SUPPORT. Facts said of every micro-operation as syntax, one lemma per constructor. -/

namespace Sys2Proof.Laws.Code

/-- Every micro-operation is well formed, its code is not reserved, and the code held in a byte is
read back (30_encoding.md R80, R81, R87). -/
def Statement (i : Instr) : Prop :=
  i.wellFormed = true ∧ codeWellFormed (encode i) = true ∧ decodeByte ((encode i).setWidth 8) = .ok i

theorem idle : Statement .idle := ⟨rfl, rfl, rfl⟩
theorem load : Statement .load := ⟨rfl, rfl, rfl⟩
theorem sc : Statement .sc := ⟨rfl, rfl, rfl⟩
theorem ac : Statement .ac := ⟨rfl, rfl, rfl⟩
theorem artx : Statement .artx := ⟨rfl, rfl, rfl⟩
theorem tkp : Statement .tkp := ⟨rfl, rfl, rfl⟩
theorem lf2 : Statement .lf2 := ⟨rfl, rfl, rfl⟩
theorem lf3 : Statement .lf3 := ⟨rfl, rfl, rfl⟩
theorem sr : Statement .sr := ⟨rfl, rfl, rfl⟩
theorem mc : Statement .mc := ⟨rfl, rfl, rfl⟩
theorem fin : Statement .fin := ⟨rfl, rfl, rfl⟩

end Sys2Proof.Laws.Code
end

