-- ==== Sys2Proof/Laws/Step.lean ====
section
/-! SUPPORT. What one step can do, said once, and what it does at each kind of position. -/

namespace Sys2Proof.Machine

/-- The codes of `SEQ` are not reserved. -/
theorem decode_seqCode (k : BitVec 3) : ∃ u, decode (seqCode k) = .ok u := by
  have h : ∀ k : BitVec 3, (decode (seqCode k)).isOk = true := by decide
  have hk := h k
  rcases hd : decode (seqCode k) with e | u
  · rw [hd] at hk; cases hk
  · exact ⟨u, rfl⟩

/-- Some micro-operation is issued at every position: the codes issued are not reserved. -/
theorem decode_issuedCode (p : Position) (start : Bool) :
    ∃ u, decode (issuedCode p start) = .ok u := by
  obtain ⟨phase, rnd, stp⟩ := p
  cases phase with
  | idle | done => cases start <;> exact ⟨_, rfl⟩
  | run => exact decode_seqCode stp
  | fin => exact ⟨_, rfl⟩

/-- A step with `rst = 1`. -/
theorem step_reset {s : State} (h : s.inputs.rst = true) : step s = .next (drive (applyReset s)) := by
  simp [step, h]

/-- A step with `rst = 0` runs the issued micro-operation. -/
theorem step_run {s : State} {u : Instr} (h : s.inputs.rst = false)
    (hu : decode (issuedCode s.pos s.inputs.start) = .ok u) : step s = runOp u s := by
  simp [step, h, hu]

/-- A micro-operation that completes at a position with a successor. -/
theorem runOp_next {u : Instr} {s t : State} {p : Position} (he : exec u s = .next t)
    (hp : nextPosition u s.pos = some p) : runOp u s = .next (drive { t with pos := p }) := by
  simp [runOp, he, hp]

/-- Everything `runOp` can have done when it answers a next state. -/
theorem runOp_inv {u : Instr} {s s' : State} (h : runOp u s = .next s') :
    ∃ t p, exec u s = .next t ∧ nextPosition u s.pos = some p ∧ s' = drive { t with pos := p } := by
  unfold runOp at h
  rcases he : exec u s with t | e | r
  · rw [he, andThen_next] at h
    rcases hp : nextPosition u s.pos with _ | p
    · rw [hp] at h; cases h
    · rw [hp] at h; cases h; exact ⟨t, p, rfl, rfl, rfl⟩
  · cases e
  · rw [he] at h; cases h

/-- Everything a step can have done when it answers a next state: a reset, or the issued
micro-operation and the move of the position. -/
theorem step_inv {s s' : State} (h : step s = .next s') :
    (s.inputs.rst = true ∧ s' = drive (applyReset s)) ∨
    (s.inputs.rst = false ∧ ∃ u t p, decode (issuedCode s.pos s.inputs.start) = .ok u ∧
      exec u s = .next t ∧ nextPosition u s.pos = some p ∧ s' = drive { t with pos := p }) := by
  rcases hr : s.inputs.rst with _ | _
  · obtain ⟨u, hu⟩ := decode_issuedCode s.pos s.inputs.start
    rw [step_run hr hu] at h
    obtain ⟨t, p, he, hp, hs⟩ := runOp_inv h
    exact .inr ⟨rfl, u, t, p, hu, he, hp, hs⟩
  · rw [step_reset hr] at h; cases h; exact .inl ⟨rfl, rfl⟩

/-- What the host drives is the same whatever the engine does in the step. -/
theorem step_host {s s' : State} (h : step s = .next s') :
    s'.inputs = (drive s).inputs ∧ s'.schedule = (drive s).schedule := by
  rcases step_inv h with ⟨-, rfl⟩ | ⟨-, u, t, p, -, he, -, rfl⟩
  · exact drive_host_congr rfl rfl
  · obtain ⟨-, hi, hs⟩ := exec_frame he
    exact drive_host_congr hi hs

/-! ## Several steps -/

@[simp] theorem runSteps_zero (s : State) : runSteps 0 s = .next s := rfl

theorem runSteps_succ (n : Nat) (s : State) :
    runSteps (n + 1) s = andThen (step s) (runSteps n) := by
  have h : core.step s = step s := rfl
  simp only [runSteps, Host.Core.run, h]
  cases step s <;> rfl

theorem runSteps_succ_of_next {s s' : State} (n : Nat) (h : step s = .next s') :
    runSteps (n + 1) s = runSteps n s' := by rw [runSteps_succ, h, andThen_next]

/-- A run of several steps that answers a next state begins with a step that does. -/
theorem runSteps_succ_inv {s t : State} {n : Nat} (h : runSteps (n + 1) s = .next t) :
    ∃ s', step s = .next s' ∧ runSteps n s' = .next t := by
  rw [runSteps_succ] at h
  rcases hs : step s with s' | e | r
  · rw [hs, andThen_next] at h; exact ⟨s', rfl, h⟩
  · cases e
  · rw [hs] at h; cases h

/-- A run of `m + n` steps is a run of `m` steps and then one of `n`. -/
theorem runSteps_add {s t : State} (m n : Nat) (h : runSteps m s = .next t) :
    runSteps (m + n) s = runSteps n t := by
  induction m generalizing s with
  | zero => cases h; simp
  | succ m ih =>
    obtain ⟨s', hs, ht⟩ := runSteps_succ_inv h
    rw [Nat.succ_add, runSteps_succ_of_next _ hs, ih ht]

/-- Two runs, one after the other, with the step count in any form. -/
theorem runSteps_trans {s t : State} {k m n : Nat} {r : Result} (hk : k = m + n)
    (hm : runSteps m s = .next t) (hn : runSteps n t = r) : runSteps k s = r := by
  rw [hk, runSteps_add m n hm, hn]

/-- After `n` steps the host's fields are what they would be with the engine left out. -/
theorem runSteps_host {s t : State} (n : Nat) (h : runSteps n s = .next t) (k : Nat) :
    inputsAfter k t = inputsAfter (n + k) s := by
  induction n generalizing s with
  | zero => cases h; simp
  | succ n ih =>
    obtain ⟨s', hs, ht⟩ := runSteps_succ_inv h
    obtain ⟨hi, hsch⟩ := step_host hs
    rw [ih ht, Nat.succ_add, inputsAfter_succ]
    exact inputsAfter_congr _ hi hsch

end Sys2Proof.Machine
end

