-- ==== Sys2Proof/Machine/Trace.lean ====
section
/-! DEFINITION. The written form of micro-operations and of a trace line (30_encoding.md R91, decision D19). Notation
only; no rule of behaviour uses it. -/

namespace Sys2Proof.Machine

/-- The mnemonic of a micro-operation, upper case, no operands (R81, R91). -/
def mnemonic (u : Instr) : String :=
  match u with
  | .idle => "IDLE"
  | .load => "LOAD"
  | .sc => "SC"
  | .ac => "AC"
  | .artx => "ARTX"
  | .tkp => "TKP"
  | .lf2 => "LF2"
  | .lf3 => "LF3"
  | .sr => "SR"
  | .mc => "MC"
  | .fin => "FIN"

/-- The micro-operation that a mnemonic names. -/
def ofMnemonic (m : String) : Option Instr :=
  [Instr.idle, .load, .sc, .ac, .artx, .tkp, .lf2, .lf3, .sr, .mc, .fin].find? fun u => mnemonic u = m

/-- The name of a phase (R27). -/
def phaseName (p : Phase) : String :=
  match p with
  | .idle => "IDLE"
  | .run => "RUN"
  | .fin => "FIN"
  | .done => "DONE"

/-- A trace line: the position, then the mnemonic (R91). The rest of a line is a comment, free text. -/
def traceLine (p : Position) (u : Instr) : String :=
  "(" ++ phaseName p.phase ++ ", " ++ toString p.rnd.toNat ++ ", " ++ toString p.stp.toNat ++ ")  " ++
    mnemonic u

end Sys2Proof.Machine
end

