-- ==== Sys2Proof/Tests/Slice0.lean ====
section
/-! SUPPORT. Tests against the spec's own vectors (95_test_vectors.md), and a witness for the hypotheses of every
statement of Certificates/Slice0/Obligations.lean. -/

namespace Sys2Proof.Tests

open Sys2Proof Sys2Proof.Machine

/-! ## A small state -/

/-- Sixteen zero cells. -/
def zeros : Block := Vector.replicate 16 0

/-- The counting block `00 01 .. 0F`. -/
def counting : Block := #v[0, 1, 2, 3, 4, 5, 6, 7, 8, 9, 10, 11, 12, 13, 14, 15]

/-- The counting tweakey `10 11 .. 3F` of V27 and P3. -/
def countingKey : TweakeyBlock := Vector.ofFn fun i => BitVec.ofNat 8 (16 + i.val)

/-- Port levels with the counting data on the data ports. -/
def ports (rst start : Bool) : Inputs :=
  { rst := rst, start := start, ptIn := counting, tkIn := countingKey }

/-- An engine with `IS = b`, lanes and `CT` zero, at a position, on port levels that stay. -/
def engine (b : Block) (p : Position) (i : Inputs) : State :=
  { is := b, tk1 := zeros, tk2 := zeros, tk3 := zeros, ct := zeros, pos := p, inputs := i, schedule := [] }

/-- `IS` after a result, when it is a next state. -/
def isOf (r : Result) : Option Block :=
  match r with
  | .next t => some t.is
  | .fault _ | .refused _ => none

/-- The position after a result, when it is a next state. -/
def posOf (r : Result) : Option Position :=
  match r with
  | .next t => some t.pos
  | .fault _ | .refused _ => none

/-- A result is a next state. -/
def isNext (r : Result) : Bool :=
  match r with
  | .next _ => true
  | .fault _ | .refused _ => false

/-! ## Well-formedness: what the checks refuse (R80, R87, R172) -/

theorem test_reserved_code_not_well_formed : codeWellFormed 0xB = false := by decide
theorem test_round_56_not_well_formed : PseudoOp.wellFormed (.round 56) = false := by decide
theorem test_round_55_well_formed : PseudoOp.wellFormed (.round 55) = true := by decide
theorem test_all_instr_well_formed : ∀ op : BitVec 4, codeWellFormed op = true →
    (decode op).toOption.map Instr.wellFormed = some true := by decide

/-! ## Decoding, from the column "binary" of the table of R81 -/

theorem test_decode_idle : decode 0b0000 = .ok .idle := by decide
theorem test_decode_load : decode 0b0001 = .ok .load := by decide
theorem test_decode_sc : decode 0b0010 = .ok .sc := by decide
theorem test_decode_ac : decode 0b0011 = .ok .ac := by decide
theorem test_decode_artx : decode 0b0100 = .ok .artx := by decide
theorem test_decode_tkp : decode 0b0101 = .ok .tkp := by decide
theorem test_decode_lf2 : decode 0b0110 = .ok .lf2 := by decide
theorem test_decode_lf3 : decode 0b0111 = .ok .lf3 := by decide
theorem test_decode_sr : decode 0b1000 = .ok .sr := by decide
theorem test_decode_mc : decode 0b1001 = .ok .mc := by decide
theorem test_decode_fin : decode 0b1010 = .ok .fin := by decide
theorem test_decode_reserved_first : decode 0b1011 = .error (.reservedCode 0b1011) := by decide
theorem test_decode_reserved_last : decode 0b1111 = .error (.reservedCode 0b1111) := by decide
theorem test_decodeByte_upper_nibble : decodeByte 0x10 = .error (.notACode 0x10) := by decide
theorem test_decodeTableWord_rejects : decodeTableWord 4 0xB = none ∧ decodeTableWord 4 0x100 = none := by
  decide
/-- P4's encoding `5 6 7`. -/
theorem test_decodeProgram_p4 : decodeProgram [5, 6, 7] = .ok [.tkp, .lf2, .lf3] := by decide
theorem test_decodeProgram_reserved : decodeProgram [1, 0xB, 2] = .error (.reservedCode 0xB) := by decide

/-! ## One step of each micro-operation, on the vectors of section 3 -/

/-- V29. -/
theorem test_idle_v29 : step (engine zeros ⟨.done, 55, 7⟩ (ports false false)) =
    .next (engine zeros ⟨.done, 55, 7⟩ (ports false false)) := rfl

/-- V27, from a register file of zeros. -/
theorem test_load_v27 : step (engine zeros ⟨.idle, 0, 0⟩ (ports false true)) =
    .next { engine counting ⟨.run, 0, 0⟩ (ports false true) with
      tk1 := #v[0x10, 0x11, 0x12, 0x13, 0x14, 0x15, 0x16, 0x17, 0x18, 0x19, 0x1A, 0x1B, 0x1C, 0x1D, 0x1E, 0x1F]
      tk2 := #v[0x20, 0x21, 0x22, 0x23, 0x24, 0x25, 0x26, 0x27, 0x28, 0x29, 0x2A, 0x2B, 0x2C, 0x2D, 0x2E, 0x2F]
      tk3 := #v[0x30, 0x31, 0x32, 0x33, 0x34, 0x35, 0x36, 0x37, 0x38, 0x39, 0x3A, 0x3B, 0x3C, 0x3D, 0x3E, 0x3F] } := rfl

/-- V4. -/
theorem test_sc_v4 : subCells
    #v[0xA3, 0x99, 0x4B, 0x66, 0xAD, 0x85, 0xA3, 0x45, 0x9F, 0x44, 0xE9, 0x2B, 0x08, 0xF5, 0x50, 0xCB] =
    #v[0x11, 0x76, 0x2C, 0x14, 0xB3, 0x30, 0x11, 0x34, 0x79, 0x8D, 0xB2, 0xF8, 0x55, 0xE7, 0x62, 0x2E] := by
  decide
/-- V2. -/
theorem test_sc_v2 : isOf (step (engine counting ⟨.run, 0, 0⟩ (ports false false))) = some
    #v[0x65, 0x4C, 0x6A, 0x42, 0x4B, 0x63, 0x43, 0x6B, 0x55, 0x75, 0x5A, 0x7A, 0x53, 0x73, 0x5B, 0x7B] := by
  decide

/-- V6. -/
theorem test_ac_v6 : isOf (step (engine zeros ⟨.run, 4, 1⟩ (ports false false))) = some
    #v[0x0F, 0, 0, 0, 0x01, 0, 0, 0, 0x02, 0, 0, 0, 0, 0, 0, 0] := by decide
/-- V9: refused at `RND = 56`, where `RC` has an entry. -/
theorem test_ac_v9 : step (engine zeros ⟨.run, 56, 1⟩ (ports false false)) =
    .refused (.roundIndexOutOfRange 56) := rfl

/-- V11. -/
theorem test_artx_v11 : addRoundTweakey (laneSlice 0 countingKey) (laneSlice 1 countingKey)
    (laneSlice 2 countingKey)
    #v[0x64, 0x4C, 0x6A, 0x42, 0x4B, 0x63, 0x43, 0x6B, 0x57, 0x75, 0x5A, 0x7A, 0x53, 0x73, 0x5B, 0x7B] =
    #v[0x64, 0x4D, 0x68, 0x41, 0x4F, 0x66, 0x45, 0x6C, 0x57, 0x75, 0x5A, 0x7A, 0x53, 0x73, 0x5B, 0x7B] := by
  decide

/-- V22. -/
theorem test_tkp_v22 : permuteLane
    #v[0xDF, 0x88, 0x95, 0x48, 0xCF, 0xC7, 0xEA, 0x52, 0xD2, 0x96, 0x33, 0x93, 0x01, 0x79, 0x74, 0x49] =
    #v[0x96, 0x49, 0xD2, 0x79, 0x33, 0x74, 0x01, 0x93, 0xDF, 0x88, 0x95, 0x48, 0xCF, 0xC7, 0xEA, 0x52] := by
  decide

/-- V24. -/
theorem test_lf2_v24 : onTop lf2Cell
    #v[0xE9, 0xA5, 0xDF, 0xBE, 0xC8, 0xA9, 0x3F, 0x29, 0xAB, 0x58, 0x8A, 0x34, 0xA4, 0x7F, 0x1A, 0xB2] =
    #v[0xD2, 0x4A, 0xBF, 0x7C, 0x91, 0x52, 0x7F, 0x53, 0xAB, 0x58, 0x8A, 0x34, 0xA4, 0x7F, 0x1A, 0xB2] := by
  decide

/-- V26. -/
theorem test_lf3_v26 : onTop lf3Cell
    #v[0xEF, 0xE8, 0x8C, 0xC3, 0x95, 0xEB, 0x18, 0x26, 0xAB, 0x1A, 0xFA, 0xC2, 0x61, 0x10, 0x12, 0xCD] =
    #v[0x77, 0xF4, 0x46, 0x61, 0xCA, 0x75, 0x0C, 0x13, 0xAB, 0x1A, 0xFA, 0xC2, 0x61, 0x10, 0x12, 0xCD] := by
  decide

/-- V15. -/
theorem test_sr_v15 : shiftRows
    #v[0xCF, 0xBC, 0xC9, 0xAA, 0xB9, 0x98, 0xF3, 0x19, 0x7B, 0x8D, 0xB2, 0xF8, 0x55, 0xE7, 0x62, 0x2E] =
    #v[0xCF, 0xBC, 0xC9, 0xAA, 0x19, 0xB9, 0x98, 0xF3, 0xB2, 0xF8, 0x7B, 0x8D, 0xE7, 0x62, 0x2E, 0x55] := by
  decide

/-- V18. -/
theorem test_mc_v18 : mixColumns
    #v[0xCF, 0xBC, 0xC9, 0xAA, 0x19, 0xB9, 0x98, 0xF3, 0xB2, 0xF8, 0x7B, 0x8D, 0xE7, 0x62, 0x2E, 0x55] =
    #v[0x9A, 0x26, 0x9C, 0x72, 0xCF, 0xBC, 0xC9, 0xAA, 0xAB, 0x41, 0xE3, 0x7E, 0x7D, 0x44, 0xB2, 0x27] := by
  decide
/-- V30: `start = 1` is ignored in `RUN`; the position after `MC` of round 17 and of round 55. -/
theorem test_mc_v30 : posOf (step (engine zeros ⟨.run, 17, 7⟩ (ports false true))) = some ⟨.run, 18, 0⟩ ∧
    posOf (step (engine zeros ⟨.run, 55, 7⟩ (ports false true))) = some ⟨.fin, 55, 7⟩ := by decide

/-- V28, with the counting block in the place of the ciphertext. -/
theorem test_fin_v28 : step (engine counting ⟨.fin, 55, 7⟩ (ports false true)) =
    .next { engine counting ⟨.done, 55, 7⟩ (ports false true) with ct := counting } := rfl

/-- P5, step 1001: a reset step in mid-run. -/
theorem test_reset_p5 : step (engine counting ⟨.run, 12, 1⟩ (ports true true)) =
    .next (engine counting ⟨.idle, 0, 0⟩ (ports true true)) := rfl

/-! ## The whole function, and the written form -/

/-- P1, the known answer (E7). -/
theorem test_encrypt_p1 : encrypt
    #v[0xA3, 0x99, 0x4B, 0x66, 0xAD, 0x85, 0xA3, 0x45, 0x9F, 0x44, 0xE9, 0x2B, 0x08, 0xF5, 0x50, 0xCB]
    #v[0xDF, 0x88, 0x95, 0x48, 0xCF, 0xC7, 0xEA, 0x52, 0xD2, 0x96, 0x33, 0x93, 0x01, 0x79, 0x74, 0x49,
      0xAB, 0x58, 0x8A, 0x34, 0xA4, 0x7F, 0x1A, 0xB2, 0xDF, 0xE9, 0xC8, 0x29, 0x3F, 0xBE, 0xA9, 0xA5,
      0xAB, 0x1A, 0xFA, 0xC2, 0x61, 0x10, 0x12, 0xCD, 0x8C, 0xEF, 0x95, 0x26, 0x18, 0xC3, 0xEB, 0xE8] =
    #v[0x94, 0xEC, 0xF5, 0x89, 0xE2, 0x01, 0x7C, 0x60, 0x1B, 0x38, 0xC6, 0x34, 0x6A, 0x10, 0xDC, 0xFA] := by
  decide +kernel

/-- The example trace line of R91, without its comment. -/
theorem test_traceLine_r91 : traceLine ⟨.run, 0, 1⟩ .ac = "(RUN, 0, 1)  AC" := by decide +kernel
theorem test_ofMnemonic : ofMnemonic "ARTX" = some .artx ∧ ofMnemonic "ART" = none := by decide +kernel
/-- R59: the first byte is the most significant. -/
theorem test_packBlock : packBlock counting = 0x000102030405060708090A0B0C0D0E0F := by decide +kernel
/-- R88: `PHASE` as two bits, and back. -/
theorem test_phase_code : ∀ p ∈ [Phase.idle, .run, .fin, .done], phaseOfCode (phaseCode p) = p := by decide

/-! ## The first step after reset runs the placed word -/

theorem test_placed_words_run : ∀ w < 11, isNext (step (State.reset.withFetchWord 4 w)) = true := by
  intro w hw
  interval_cases w <;> rfl

/-! ## Witnesses: each statement's hypotheses are met -/

theorem witness_ProgramCodesRoundTrip :
    (∀ i ∈ [Instr.load, .sc, .fin], i.wellFormed = true) ∧
    decodeProgram [0x1, 0x2, 0xA] = .ok [.load, .sc, .fin] ∧
    (∃ op ∈ [(0x1 : BitVec 4), 0xB, 0xF], codeWellFormed op = false) := by decide

theorem witness_CompleteIssueTable : (0xA : BitVec 4).toNat ≤ 0xA ∧
    issuedCode ⟨.fin, 55, 7⟩ false = 0xA ∧ issuedCode ⟨.idle, 0, 0⟩ false = 0x0 := by decide

theorem witness_PlacedWordRunsNext : decodeTableWord 4 0x0 = some .idle ∧
    decodeTableWord 4 0xA = some .fin := by decide

/-- One state for each clause: a reset step, a completing micro-operation, a refused one. -/
theorem witness_StepRunsDecodedInstruction :
    (engine zeros ⟨.run, 3, 4⟩ (ports true false)).inputs.rst = true ∧
    (let s := engine zeros ⟨.run, 55, 7⟩ (ports false false)
     s.inputs.rst = false ∧ decode (issuedCode s.pos s.inputs.start) = .ok .mc ∧
       isNext (exec .mc s) = true ∧ nextPosition .mc s.pos = some ⟨.fin, 55, 7⟩) ∧
    (let s := engine zeros ⟨.run, 63, 1⟩ (ports false false)
     s.inputs.rst = false ∧ decode (issuedCode s.pos s.inputs.start) = .ok .ac ∧
       exec .ac s = .refused (.roundIndexOutOfRange 63)) := by
  refine ⟨rfl, ⟨rfl, rfl, rfl, rfl⟩, rfl, rfl, rfl⟩

/-- One state for each row of the table, at the boundary values of `RND` and `STEP`. -/
theorem witness_SuccessorTable :
    posOf (step (engine zeros ⟨.run, 63, 7⟩ (ports true true))) = some ⟨.idle, 0, 0⟩ ∧
    posOf (step (engine zeros ⟨.idle, 0, 0⟩ (ports false false))) = some ⟨.idle, 0, 0⟩ ∧
    posOf (step (engine zeros ⟨.idle, 0, 0⟩ (ports false true))) = some ⟨.run, 0, 0⟩ ∧
    posOf (step (engine zeros ⟨.run, 0, 0⟩ (ports false false))) = some ⟨.run, 0, 1⟩ ∧
    posOf (step (engine zeros ⟨.run, 55, 6⟩ (ports false false))) = some ⟨.run, 55, 7⟩ ∧
    posOf (step (engine zeros ⟨.run, 0, 7⟩ (ports false false))) = some ⟨.run, 1, 0⟩ ∧
    posOf (step (engine zeros ⟨.run, 54, 7⟩ (ports false false))) = some ⟨.run, 55, 0⟩ ∧
    posOf (step (engine zeros ⟨.run, 55, 7⟩ (ports false false))) = some ⟨.fin, 55, 7⟩ ∧
    posOf (step (engine zeros ⟨.fin, 55, 7⟩ (ports false false))) = some ⟨.done, 55, 7⟩ ∧
    posOf (step (engine zeros ⟨.done, 55, 7⟩ (ports false false))) = some ⟨.done, 55, 7⟩ ∧
    posOf (step (engine zeros ⟨.done, 55, 7⟩ (ports false true))) = some ⟨.run, 0, 0⟩ := by
  refine ⟨rfl, rfl, rfl, rfl, rfl, rfl, rfl, rfl, rfl, rfl, rfl⟩

theorem witness_EventPrecedence :
    (ports true true).rst = true ∧ (ports false true).rst = false ∧ (ports false true).start = true ∧
    waiting .idle = true ∧ waiting .done = true ∧ waiting .run = false ∧ waiting .fin = false ∧
    decode (issuedCode ⟨.run, 9, 2⟩ false) = .ok .artx ∧
    decode (issuedCode ⟨.fin, 55, 7⟩ false) = .ok .fin ∧ (ports false false).start = false := by decide

theorem witness_LegalPositionsKept :
    (Position.legal ⟨.idle, 0, 0⟩ && Position.legal ⟨.run, 0, 0⟩ && Position.legal ⟨.run, 55, 7⟩ &&
      Position.legal ⟨.fin, 55, 7⟩ && Position.legal ⟨.done, 55, 7⟩) = true ∧
    (engine zeros ⟨.done, 63, 1⟩ (ports true false)).inputs.rst = true ∧
    Position.legal ⟨.run, 56, 0⟩ = false := by decide

/-- Reset held for any number of steps, from a position that no run reaches. -/
theorem witness_ResetHeldClearsPositionOnly (n : Nat) :
    ∀ k, k < n + 1 → (inputsAfter k (engine zeros ⟨.fin, 63, 2⟩ (ports true true))).rst = true := by
  intro k _
  rw [inputsAfter_of_schedule_nil rfl]
  rfl

/-- The first and the last round index that does not exist. -/
theorem witness_AddConstantsRefusedBeyondRound55 :
    exec .ac (engine zeros ⟨.run, 56, 1⟩ (ports false false)) = .refused (.roundIndexOutOfRange 56) ∧
    step (engine zeros ⟨.run, 63, 1⟩ (ports false true)) = .refused (.roundIndexOutOfRange 63) := ⟨rfl, rfl⟩

theorem witness_StepRefusesOnlyBeyondRound55 :
    step (engine zeros ⟨.run, 56, 7⟩ (ports false false)) = .refused (.noSuccessor ⟨.run, 56, 7⟩) ∧
    step (engine zeros ⟨.run, 63, 7⟩ (ports false false)) = .refused (.noSuccessor ⟨.run, 63, 7⟩) ∧
    isNext (step (engine zeros ⟨.run, 63, 6⟩ (ports false false))) = true := ⟨rfl, rfl, rfl⟩

theorem witness_StatusFlags :
    done (engine zeros ⟨.done, 55, 7⟩ (ports false false)) = true ∧
    done (engine zeros ⟨.run, 55, 7⟩ (ports false false)) = false ∧
    busy (engine zeros ⟨.fin, 55, 7⟩ (ports false false)) = true ∧
    isNext (exec .mc (engine zeros ⟨.done, 55, 7⟩ (ports false false))) = true := by decide

/-- A step that writes `CT`, one that does not, and a micro-operation that completes. -/
theorem witness_OnlyFinWritesCT :
    step (engine counting ⟨.fin, 55, 7⟩ (ports false false)) =
      .next { engine counting ⟨.done, 55, 7⟩ (ports false false) with ct := counting } ∧
    step (engine counting ⟨.fin, 55, 7⟩ (ports true false)) =
      .next (engine counting ⟨.idle, 0, 0⟩ (ports true false)) ∧
    exec .fin (engine counting ⟨.idle, 0, 0⟩ (ports true false)) =
      .next { engine counting ⟨.idle, 0, 0⟩ (ports true false) with ct := counting } := ⟨rfl, rfl, rfl⟩

/-- `done` from 0 to 1, from 1 to 0 by `LOAD` and by reset, and held at 1. -/
theorem witness_DoneChangesOnlyByFinLoadReset :
    posOf (step (engine zeros ⟨.fin, 55, 7⟩ (ports false false))) = some ⟨.done, 55, 7⟩ ∧
    posOf (step (engine zeros ⟨.done, 55, 7⟩ (ports false true))) = some ⟨.run, 0, 0⟩ ∧
    posOf (step (engine zeros ⟨.done, 55, 7⟩ (ports true false))) = some ⟨.idle, 0, 0⟩ ∧
    posOf (step (engine zeros ⟨.done, 55, 7⟩ (ports false false))) = some ⟨.done, 55, 7⟩ :=
  ⟨rfl, rfl, rfl, rfl⟩

/-- Other data on the ports in a reset step, in a step of a run, and in a waiting step. -/
theorem witness_PortsReadOnlyByLoad :
    isNext (step (engine zeros ⟨.run, 63, 1⟩ (ports true true))) = true ∧
    isNext (step (engine zeros ⟨.run, 55, 1⟩ (ports false true))) = true ∧
    isNext (step (engine zeros ⟨.idle, 0, 0⟩ (ports false false))) = true ∧
    Inputs.quiet.rst = (ports false false).rst ∧ Inputs.quiet.start = (ports false false).start ∧
    Inputs.quiet.ptIn ≠ (ports false false).ptIn := by decide

theorem witness_LanePermutationOrder : pt[7] = 11 ∧ pt[8] = 0 ∧ pt[15] = 7 ∧
    iterate permuteLane 1 counting ≠ counting ∧ iterate permuteLane 15 counting ≠ counting := by
  decide +kernel

theorem witness_RoundOperationsTouchOnlyIS : Instr.ac ∈ [Instr.sc, .ac, .artx, .sr, .mc] ∧
    (engine zeros ⟨.run, 55, 1⟩ (ports false false)).pos.rnd.toNat ≤ 55 := by decide

/-- Two blocks that share cell 5 and no other. -/
theorem witness_SubCellsRule : counting[5] = (Vector.replicate 16 (5 : Cell))[5] ∧
    counting ≠ Vector.replicate 16 (5 : Cell) := by decide

theorem witness_AddConstantsRule :
    (engine zeros ⟨.run, 0, 1⟩ (ports false false)).pos.rnd.toNat = (0 : Fin 56).val ∧
    (engine zeros ⟨.run, 55, 1⟩ (ports false false)).pos.rnd.toNat = (55 : Fin 56).val ∧
    56 ≤ (engine zeros ⟨.run, 56, 1⟩ (ports false false)).pos.rnd.toNat := by decide

/-- Zero lanes; lanes whose cells cancel; two sets of lanes that differ below row 1 only. -/
theorem witness_AddRoundTweakeyRule :
    (engine counting ⟨.run, 0, 2⟩ (ports false false)).tk1 = Vector.replicate 16 0 ∧
    (∀ j : Fin 16, counting[j] ^^^ counting[j] ^^^ zeros[j] = 0) ∧
    (∀ j : Fin 16, j.val < 8 → counting[j] = (counting.set 8 0xFF)[j]) ∧
    counting ≠ counting.set 8 0xFF := by decide

/-- Two blocks that share column 0 and no other; two that share bit 0 of every cell and no other bit. -/
theorem witness_MixColumnsRule :
    (∀ row : Fin 4, cellAt counting row 0 = cellAt (counting.set 1 0xFF) row 0) ∧
    counting ≠ counting.set 1 0xFF ∧
    (∀ i : Fin 16, zeros[i].getLsbD 0 = (Vector.replicate 16 (2 : Cell))[i].getLsbD 0) := by decide

/-- All 56 advances of a run begun on the counting data, whatever `IS` held. -/
theorem witness_StartsRun_idle :
    StartsRun (engine zeros ⟨.idle, 0, 0⟩ (ports false true)) counting countingKey where
  waits := rfl
  rst := rfl
  start := rfl
  ptIn := rfl
  tkIn := rfl
  noReset := by intro k _ _; rw [inputsAfter_of_schedule_nil rfl]; rfl

/-- An engine in `DONE` whose host raises `start` for one step, with zero data. -/
def startOnce : State :=
  { engine counting ⟨.done, 55, 7⟩ { Inputs.quiet with start := true } with schedule := [Inputs.quiet] }

/-- A run begun from `DONE` under the zero tweakey (`LanesInRoundAreAdvances`, `LanesAfterRun`,
`RunDeliversCiphertext`). -/
theorem witness_StartsRun_done : StartsRun startOnce zeros (Vector.replicate 48 0) where
  waits := rfl
  rst := rfl
  start := rfl
  ptIn := rfl
  tkIn := rfl
  noReset := by
    intro k h _
    obtain ⟨n, rfl⟩ : ∃ n, k = n + 1 := ⟨k - 1, by omega⟩
    rw [inputsAfter_succ, inputsAfter_of_schedule_nil rfl]
    rfl

/-- `startOnce`'s levels in every later step, as `RunDeliversCiphertext` asks of the wait. -/
theorem witness_RunDeliversCiphertext (n : Nat) : ∀ j, 450 ≤ j → j < 450 + n →
    (inputsAfter j startOnce).rst = false ∧ (inputsAfter j startOnce).start = false := by
  intro j h _
  obtain ⟨n, rfl⟩ : ∃ n, j = n + 1 := ⟨j - 1, by omega⟩
  rw [inputsAfter_succ, inputsAfter_of_schedule_nil rfl]
  exact ⟨rfl, rfl⟩

/-- A micro-operation other than `IDLE` is issued and completes; and the engine waits for ever. -/
theorem witness_IdleRule :
    decode (issuedCode ⟨.run, 0, 0⟩ true) = .ok .sc ∧ Instr.sc ≠ .idle ∧
    isNext (step (engine zeros ⟨.run, 0, 0⟩ (ports false true))) = true ∧
    ∀ n k, k < n → (inputsAfter k (engine zeros ⟨.done, 55, 7⟩ (ports false false))).rst = false ∧
      (inputsAfter k (engine zeros ⟨.done, 55, 7⟩ (ports false false))).start = false := by
  refine ⟨rfl, by decide, rfl, fun n k _ => ?_⟩
  rw [inputsAfter_of_schedule_nil rfl]
  exact ⟨rfl, rfl⟩

theorem witness_LoadRule_FinRule :
    waiting (engine zeros ⟨.done, 55, 7⟩ (ports false true)).pos.phase = true ∧
    (engine zeros ⟨.done, 55, 7⟩ (ports false true)).inputs.start = true ∧
    (engine zeros ⟨.fin, 55, 7⟩ (ports false true)).pos.phase = .fin ∧
    (engine zeros ⟨.fin, 55, 7⟩ (ports false true)).inputs.rst = false := by decide

/-- Rounds 0 and 55, with `start` held high. -/
theorem witness_EightStepsAreOneRound :
    NoReset (engine counting ⟨.run, BitVec.ofNat 6 (0 : Fin 56).val, 0⟩ (ports false true)) 0 8 ∧
    NoReset (engine counting ⟨.run, BitVec.ofNat 6 (55 : Fin 56).val, 0⟩ (ports false true)) 0 8 := by
  constructor <;> · intro k _ _; rw [inputsAfter_of_schedule_nil rfl]; rfl

theorem witness_PseudoOperations : PseudoOp.wellFormed (.round 56) = false ∧
    PseudoOp.wellFormed (.round 63) = false := by decide

/-- The three kinds of position with steps left, at the ends of their ranges: 449, 2 and 1 steps. -/
theorem witness_EngineCannotHang :
    (∀ p ∈ [(⟨.run, 0, 0⟩ : Position), ⟨.run, 55, 7⟩, ⟨.fin, 55, 7⟩], p.legal = true ∧
      busy (engine zeros p (ports false true)) = true) ∧
    ∀ p, NoReset (engine zeros p (ports false true)) 0 449 := by
  refine ⟨by decide, fun p k _ _ => ?_⟩
  rw [inputsAfter_of_schedule_nil rfl]
  rfl

/-- Two states that agree on what `LF2` reads and differ elsewhere. -/
theorem witness_ImplicitOperands :
    isNext (exec .lf2 (engine zeros ⟨.run, 0, 4⟩ (ports false false))) = true ∧
    isNext (exec .lf2 (engine counting ⟨.run, 9, 4⟩ (ports false true))) = true ∧
    ∀ l : Loc, reads .lf2 l = true → look (engine zeros ⟨.run, 0, 4⟩ (ports false false)) l =
      look (engine counting ⟨.run, 9, 4⟩ (ports false true)) l := by
  refine ⟨rfl, rfl, fun l h => ?_⟩
  cases l with
  | tk2 i => rfl
  | is _ | tk1 _ | tk3 _ | ct _ | ptIn _ | tkIn _ | rnd => simp [reads] at h

theorem witness_EveryMicroOperationCompletes :
    (engine zeros ⟨.run, 55, 1⟩ (ports false false)).pos.rnd.toNat ≤ 55 := by decide

/-- Two waiting states with different datapaths and output registers agree, and step together. -/
theorem witness_UnwrittenRegistersNeverMatter :
    Agree (engine zeros ⟨.idle, 0, 0⟩ (ports false true))
      { engine counting ⟨.idle, 0, 0⟩ (ports false true) with ct := counting } ∧
    isNext (step (engine zeros ⟨.idle, 0, 0⟩ (ports false true))) = true ∧ zeros ≠ counting := by
  refine ⟨⟨rfl, rfl, rfl, fun h => ?_, fun h => ?_⟩, rfl, by decide⟩
  · simp [waiting, engine] at h
  · simp [engine] at h

/-- Two engines, both of which can step. -/
theorem witness_EnginesAreIndependent :
    let sys : Vector State 2 := #v[engine zeros ⟨.run, 0, 0⟩ (ports false false),
      engine counting ⟨.fin, 55, 7⟩ (ports false false)]
    (∃ a, stepEngine 0 sys = .next a) ∧ (∃ b, stepEngine 1 sys = .next b) ∧ (0 : Fin 2) ≠ 1 :=
  ⟨⟨_, rfl⟩, ⟨_, rfl⟩, by decide⟩

theorem witness_FusedEngineDeliversCiphertext :
    let f : FusedState := { d := loaded zeros countingKey, ct := zeros, phase := .done, rnd := 55 }
    let is := List.replicate 57 (ports false true)
    waiting f.phase = true ∧ (ports false true).rst = false ∧ (ports false true).start = true ∧
      is.length = 57 ∧ ∀ j ∈ is, j.rst = false := by
  refine ⟨rfl, rfl, rfl, rfl, fun j h => ?_⟩
  rw [List.eq_of_mem_replicate h]
  rfl

end Sys2Proof.Tests
end

section
/-! PROOFS. A run always ends (00_scope.md R19): the steps left of a run, one fewer after each step. -/

namespace Sys2Proof.Machine

/-! ## A step from a legal position -/

/-- The round index of a legal position names a round (R28). -/
theorem rnd_lt_of_legal {p : Position} (h : p.legal = true) : p.rnd.toNat < 56 := by
  obtain ⟨phase, rnd, stp⟩ := p
  cases phase with
  | run => simpa [Position.legal] using h
  | idle | fin | done =>
    obtain ⟨rfl, -⟩ : rnd = _ ∧ stp = _ := by simpa [Position.legal] using h
    simp

/-- From a legal position, with `rst = 0`, the issued micro-operation completes and the position
moves to its successor. -/
theorem step_pos_of_legal {s : State} {u : Instr} {p : Position} (hl : s.pos.legal = true)
    (hr : s.inputs.rst = false) (hu : decode (issuedCode s.pos s.inputs.start) = .ok u)
    (hp : nextPosition u s.pos = some p) : ∃ t, step s = .next t ∧ t.pos = p := by
  obtain ⟨t, he⟩ | ⟨-, hge⟩ := exec_next_or u s
  · exact ⟨_, by rw [step_run hr hu, runOp_next he hp], by simp⟩
  · exact absurd (rnd_lt_of_legal hl) (Nat.not_lt.mpr hge)

/-- `SEQ` holds none of the driver's micro-operations (R83). -/
theorem decode_seqCode_ne_driver (k : BitVec 3) :
    decode (seqCode k) ≠ .ok .idle ∧ decode (seqCode k) ≠ .ok .load ∧
      decode (seqCode k) ≠ .ok .fin := by
  revert k
  decide

/-- In `RUN` the position moves by the rule of the round, whichever micro-operation is issued. -/
theorem nextPosition_of_run {p : Position} {u : Instr} {start : Bool} (hp : p.phase = .run)
    (hu : decode (issuedCode p start) = .ok u) : nextPosition u p = nextInRound p := by
  have hseq : decode (seqCode p.stp) = .ok u := by simpa [issuedCode, hp] using hu
  obtain ⟨hidle, hload, hfin⟩ := decode_seqCode_ne_driver p.stp
  cases u with
  | idle => exact absurd hseq hidle
  | load => exact absurd hseq hload
  | fin => exact absurd hseq hfin
  | sc | ac | artx | tkp | lf2 | lf3 | sr | mc => rfl

/-! ## The steps left -/

/-- The steps from a position until `done` is 1: what is left of the 448 of the rounds, and `FIN`. -/
def Position.stepsLeft (p : Position) : Nat :=
  match p.phase with
  | .run => 8 * (55 - p.rnd.toNat) + (8 - p.stp.toNat) + 1
  | .fin => 1
  | .idle | .done => 0

theorem stepsLeft_of_run {p : Position} (hp : p.phase = .run) :
    p.stepsLeft = 8 * (55 - p.rnd.toNat) + (8 - p.stp.toNat) + 1 := by simp [Position.stepsLeft, hp]

theorem stepsLeft_of_fin {p : Position} (hp : p.phase = .fin) : p.stepsLeft = 1 := by
  simp [Position.stepsLeft, hp]

theorem stepsLeft_of_done {p : Position} (hp : p.phase = .done) : p.stepsLeft = 0 := by
  simp [Position.stepsLeft, hp]

/-- A legal position of a run, the one that shows its result included. -/
structure Position.InRun (p : Position) : Prop where
  legal : p.legal = true
  notIdle : p.phase ≠ .idle

theorem stepsLeft_le (p : Position) : p.stepsLeft ≤ 449 := by
  unfold Position.stepsLeft
  split <;> omega

/-- Within a run, `done` is 1 exactly when no step is left. -/
theorem done_eq_of_inRun {s : State} (h : s.pos.InRun) : done s = decide (s.pos.stepsLeft = 0) := by
  cases hp : s.pos.phase with
  | idle => exact absurd hp h.notIdle
  | run => simp [done, hp, stepsLeft_of_run hp]
  | fin => simp [done, hp, stepsLeft_of_fin hp]
  | done => simp [done, hp, stepsLeft_of_done hp]

theorem inRun_of_busy {s : State} (hl : s.pos.legal = true) (hb : busy s = true) : s.pos.InRun :=
  ⟨hl, fun hp => by simp [busy, hp] at hb⟩

/-- The successor inside a round, at its end and after the last round leaves one step fewer. -/
theorem nextInRound_stepsLeft {p : Position} (hl : p.legal = true) (hp : p.phase = .run) :
    ∃ q, nextInRound p = some q ∧ q.InRun ∧ q.stepsLeft + 1 = p.stepsLeft := by
  have hrnd := rnd_lt_of_legal hl
  have hstp := p.stp.isLt
  rw [stepsLeft_of_run hp]
  by_cases hin : p.stp.toNat < 7
  · refine ⟨⟨.run, p.rnd, p.stp + 1⟩, by simp [nextInRound, hin, hp], ⟨?_, nofun⟩, ?_⟩
    · simpa [Position.legal] using hrnd
    · have hstp' : (p.stp + 1).toNat = p.stp.toNat + 1 := by bv_omega
      simp only [stepsLeft_of_run, hstp']
      omega
  by_cases hlast : p.rnd.toNat < 55
  · have hrnd' : (p.rnd + 1).toNat = p.rnd.toNat + 1 := by bv_omega
    refine ⟨⟨.run, p.rnd + 1, 0⟩, by simp [nextInRound, hin, hlast], ⟨?_, nofun⟩, ?_⟩
    · simp only [Position.legal, hrnd', decide_eq_true_eq]
      omega
    · simp only [stepsLeft_of_run, hrnd']
      bv_omega
  · have h55 : p.rnd.toNat = 55 := by omega
    refine ⟨⟨.fin, 55, 7⟩, by simp [nextInRound, hin, h55], ⟨rfl, nofun⟩, ?_⟩
    rw [stepsLeft_of_fin rfl]
    omega

/-- While steps are left, the micro-operation issued has a successor that leaves one fewer. -/
theorem nextPosition_stepsLeft {p : Position} {u : Instr} {start : Bool} (h : p.InRun)
    (hpos : 0 < p.stepsLeft) (hu : decode (issuedCode p start) = .ok u) :
    ∃ q, nextPosition u p = some q ∧ q.InRun ∧ q.stepsLeft + 1 = p.stepsLeft := by
  obtain ⟨hl, hidle⟩ := h
  cases hp : p.phase with
  | idle => exact absurd hp hidle
  | run =>
    rw [nextPosition_of_run hp hu]
    exact nextInRound_stepsLeft hl hp
  | fin =>
    obtain rfl : Instr.fin = u := by simpa [issuedCode, hp, decode] using hu
    refine ⟨{ p with phase := .done }, rfl, ⟨?_, nofun⟩, ?_⟩
    · simpa [Position.legal, hp] using hl
    · rw [stepsLeft_of_fin hp, stepsLeft_of_done rfl]
  | done => exact absurd (stepsLeft_of_done hp) hpos.ne'

/-- A step of a run with `rst = 0`. -/
theorem step_stepsLeft {s : State} (h : s.pos.InRun) (hpos : 0 < s.pos.stepsLeft)
    (hr : s.inputs.rst = false) :
    ∃ t, step s = .next t ∧ t.pos.InRun ∧ t.pos.stepsLeft + 1 = s.pos.stepsLeft := by
  obtain ⟨u, hu⟩ := decode_issuedCode s.pos s.inputs.start
  obtain ⟨q, hq, hrun, hleft⟩ := nextPosition_stepsLeft h hpos hu
  obtain ⟨t, ht, rfl⟩ := step_pos_of_legal h.legal hr hu hq
  exact ⟨t, ht, hrun, hleft⟩

/-- `n` steps of a run use up `n` of the steps left. -/
theorem runSteps_stepsLeft {s : State} (h : s.pos.InRun) (n : Nat) (hn : n ≤ s.pos.stepsLeft)
    (hr : NoReset s 0 n) :
    ∃ t, runSteps n s = .next t ∧ t.pos.InRun ∧ t.pos.stepsLeft + n = s.pos.stepsLeft := by
  induction n with
  | zero => exact ⟨s, rfl, h, rfl⟩
  | succ n ih =>
    obtain ⟨t, ht, hrun, hleft⟩ := ih (by omega) fun k hk hlt => hr k hk (by omega)
    have hrst : t.inputs.rst = false := by
      rw [← inputsAfter_zero t, runSteps_host n ht 0]
      exact hr n (by omega) (by omega)
    obtain ⟨t', ht', hrun', hleft'⟩ := step_stepsLeft hrun (by omega) hrst
    exact ⟨t', by rw [runSteps_add n 1 ht, runSteps_succ_of_next 0 ht', runSteps_zero], hrun',
      by omega⟩

/-- Settles O43: every step of a run uses up one of the steps left, and `done` is 1 when none is. -/
theorem engineCannotHang : Obligations.EngineCannotHang := by
  intro s hl hb
  change NoReset s 0 s.pos.stepsLeft → s.pos.stepsLeft ≤ 449 ∧
    (∃ t, runSteps s.pos.stepsLeft s = .next t ∧ done t = true) ∧
    ∀ n, n < s.pos.stepsLeft → ∃ t, runSteps n s = .next t ∧ done t = false
  intro hr
  have hrun := inRun_of_busy hl hb
  refine ⟨stepsLeft_le _, ?_, fun n hn => ?_⟩
  · obtain ⟨t, ht, hrun', hleft⟩ := runSteps_stepsLeft hrun _ le_rfl hr
    exact ⟨t, ht, by rw [done_eq_of_inRun hrun', decide_eq_true_eq]; omega⟩
  · obtain ⟨t, ht, hrun', hleft⟩ :=
      runSteps_stepsLeft hrun n hn.le fun k hk hlt => hr k hk (by omega)
    exact ⟨t, ht, by rw [done_eq_of_inRun hrun', decide_eq_false_iff_not]; omega⟩

end Sys2Proof.Machine
end

section
/-! PROOFS. What a micro-operation reads and writes, and the five kinds of step as a relation: the
rules that the statements of 10_state.md rest on. -/

namespace Sys2Proof.Machine

/-! ## What a micro-operation reads and writes -/

/-- `CT` after a micro-operation: only `FIN` writes it (R24). -/
theorem exec_ct {u : Instr} {s t : State} (h : exec u s = .next t) :
    t.ct = if u = .fin then s.is else s.ct := by
  cases u with
  | ac =>
    obtain hlt | hge := Nat.lt_or_ge s.pos.rnd.toNat 56
    · rw [exec_ac_of_lt hlt] at h; cases h; rfl
    · rw [exec_ac_of_ge hge] at h; cases h
  | idle | load | sc | artx | tkp | lf2 | lf3 | sr | mc | fin =>
    obtain rfl := Host.Outcome.next.inj h
    rfl

/-- A micro-operation reads the datapath registers and `RND` at most, and `LOAD` alone the ports (R82):
none reads `CT`, `PHASE` or `STEP`. -/
theorem exec_congr {u : Instr} {s t s' : State} (hd : datapath s = datapath t)
    (hr : s.pos.rnd = t.pos.rnd) (hi : u = .load → s.inputs = t.inputs)
    (h : exec u s = .next s') :
    ∃ t', exec u t = .next t' ∧ datapath s' = datapath t' := by
  obtain ⟨his, h1, h2, h3⟩ : s.is = t.is ∧ s.tk1 = t.tk1 ∧ s.tk2 = t.tk2 ∧ s.tk3 = t.tk3 := by
    simpa [datapath] using hd
  cases u with
  | load =>
    cases h
    exact ⟨_, exec_load t, by simp [datapath, hi rfl]⟩
  | ac =>
    obtain hlt | hge := Nat.lt_or_ge s.pos.rnd.toNat 56
    · rw [exec_ac_of_lt hlt] at h
      cases h
      exact ⟨_, exec_ac_of_lt (hr ▸ hlt), by simp [datapath, his, h1, h2, h3, hr]⟩
    · rw [exec_ac_of_ge hge] at h; cases h
  | idle | sc | artx | tkp | lf2 | lf3 | sr | mc | fin =>
    obtain rfl := Host.Outcome.next.inj h
    exact ⟨_, rfl, by simp [datapath, his, h1, h2, h3]⟩

/-- The micro-operations of `SEQ` leave `CT` as it is: `FIN` is not among them (R83). -/
theorem exec_seq_ct {u : Instr} {k : BitVec 3} {s t : State} (hu : decode (seqCode k) = .ok u)
    (h : exec u s = .next t) : t.ct = s.ct := by
  obtain ⟨-, -, hfin⟩ := decode_seqCode_ne_driver k
  have hne : u ≠ .fin := fun he => hfin (he ▸ hu)
  rw [exec_ct h, if_neg hne]

/-- The micro-operations of `SEQ` read no port: `LOAD` is not among them (R83). -/
theorem exec_seq_congr {u : Instr} {k : BitVec 3} {s t s' : State}
    (hu : decode (seqCode k) = .ok u) (hd : datapath s = datapath t)
    (hr : s.pos.rnd = t.pos.rnd) (h : exec u s = .next s') :
    ∃ t', exec u t = .next t' ∧ datapath s' = datapath t' := by
  obtain ⟨-, hload, -⟩ := decode_seqCode_ne_driver k
  exact exec_congr hd hr (fun he => absurd (he ▸ hu) hload) h

/-- Two states with the same datapath and the same other fields are equal. -/
theorem state_ext {s t : State} (hd : datapath s = datapath t) (hct : s.ct = t.ct)
    (hp : s.pos = t.pos) (hi : s.inputs = t.inputs) (hs : s.schedule = t.schedule) : s = t := by
  cases s
  cases t
  simp_all [datapath]

/-! ## The five kinds of step -/

/-- One step, by its kind: a reset, a wait, the start of a run, a micro-operation of a round, and the
read-out. -/
inductive StepTo (s : State) : State → Prop where
  /-- `rst = 1` (R141). -/
  | reset (hr : s.inputs.rst = true) : StepTo s (drive (applyReset s))
  /-- `IDLE` in a waiting phase (R142, R151). -/
  | wait (hr : s.inputs.rst = false) (hw : waiting s.pos.phase = true)
      (hs : s.inputs.start = false) : StepTo s (drive s)
  /-- `LOAD` in a waiting phase (R143, R147). -/
  | load (hr : s.inputs.rst = false) (hw : waiting s.pos.phase = true)
      (hs : s.inputs.start = true) : StepTo s (drive { s with
        is := s.inputs.ptIn, tk1 := laneSlice 0 s.inputs.tkIn, tk2 := laneSlice 1 s.inputs.tkIn,
        tk3 := laneSlice 2 s.inputs.tkIn, pos := ⟨.run, 0, 0⟩ })
  /-- `SEQ[STEP]` in `RUN` (R83, R148, R149). -/
  | round (hr : s.inputs.rst = false) (hp : s.pos.phase = .run) {u : Instr} {t : State} {q : Position}
      (hu : decode (seqCode s.pos.stp) = .ok u) (he : exec u s = .next t)
      (hq : nextInRound s.pos = some q) : StepTo s (drive { t with pos := q })
  /-- `FIN` (R146, R150). -/
  | fin (hr : s.inputs.rst = false) (hp : s.pos.phase = .fin) :
      StepTo s (drive { s with ct := s.is, pos := { s.pos with phase := .done } })

/-- In the waiting phases `start` chooses between `LOAD` and `IDLE` (R84). -/
theorem decode_issuedCode_of_waiting {p : Position} (hw : waiting p.phase = true) (start : Bool) :
    decode (issuedCode p start) = .ok (if start then .load else .idle) := by
  cases hp : p.phase with
  | idle | done => cases start <;> simp [issuedCode, hp, decode]
  | run | fin => simp [hp, waiting] at hw

theorem issuedCode_of_run {p : Position} (hp : p.phase = .run) (start : Bool) :
    issuedCode p start = seqCode p.stp := by simp [issuedCode, hp]

theorem decode_issuedCode_of_fin {p : Position} (hp : p.phase = .fin) (start : Bool) :
    decode (issuedCode p start) = .ok .fin := by simp [issuedCode, hp, decode]

theorem StepTo.step_eq {s s' : State} (h : StepTo s s') : step s = .next s' := by
  cases h with
  | reset hr => exact step_reset hr
  | wait hr hw hs =>
    rw [step_run hr (decode_issuedCode_of_waiting hw _), hs]
    exact runOp_next (exec_idle s) rfl
  | load hr hw hs =>
    rw [step_run hr (decode_issuedCode_of_waiting hw _), hs]
    exact runOp_next (exec_load s) rfl
  | @round hr hp u t q hu he hq =>
    have hu' : decode (issuedCode s.pos s.inputs.start) = .ok u := by rwa [issuedCode_of_run hp]
    rw [step_run hr hu']
    exact runOp_next he (by rwa [nextPosition_of_run hp hu'])
  | fin hr hp =>
    rw [step_run hr (decode_issuedCode_of_fin hp _)]
    exact runOp_next (exec_fin s) rfl

theorem stepTo_of_step_eq {s s' : State} (h : step s = .next s') : StepTo s s' := by
  obtain ⟨hr, rfl⟩ | ⟨hr, u, t, q, hu, he, hq, rfl⟩ := step_inv h
  · exact .reset hr
  cases hw : waiting s.pos.phase with
  | true =>
    rw [decode_issuedCode_of_waiting hw] at hu
    cases hs : s.inputs.start with
    | true => rw [hs] at hu; cases hu; cases hq; cases he; exact .load hr hw hs
    | false => rw [hs] at hu; cases hu; cases hq; cases he; exact .wait hr hw hs
  | false =>
    cases hp : s.pos.phase with
    | idle | done => simp [hp, waiting] at hw
    | run =>
      rw [nextPosition_of_run hp hu] at hq
      exact .round hr hp (by rwa [issuedCode_of_run hp] at hu) he hq
    | fin =>
      rw [decode_issuedCode_of_fin hp] at hu
      cases hu; cases hq; cases he
      exact .fin hr hp

/-- `StepTo` says which next states `step` answers. -/
theorem step_eq_next_iff {s s' : State} : step s = .next s' ↔ StepTo s s' :=
  ⟨stepTo_of_step_eq, StepTo.step_eq⟩

/-- The rounds do not lead to `DONE`: `FIN` comes between the rounds and `DONE` (R149, R150). -/
theorem nextInRound_ne_done {p q : Position} (hp : p.phase = .run) (h : nextInRound p = some q) :
    q.phase ≠ .done := by
  unfold nextInRound at h
  split_ifs at h
  · cases h; simp [hp]
  · cases h; nofun
  · cases h; nofun

/-! ## The flags -/

theorem busy_eq_true_iff (s : State) : busy s = true ↔ s.pos.phase = .run ∨ s.pos.phase = .fin := by
  cases hp : s.pos.phase <;> simp [busy, hp]

theorem done_eq_true_iff (s : State) : done s = true ↔ s.pos.phase = .done := by
  cases hp : s.pos.phase <;> simp [done, hp]

theorem busy_congr {s t : State} (h : s.pos.phase = t.pos.phase) : busy s = busy t := by
  simp [busy, h]

theorem done_congr {s t : State} (h : s.pos.phase = t.pos.phase) : done s = done t := by
  simp [done, h]

theorem ctOut_of_done {s : State} (h : done s = true) : ctOut s = .ok s.ct := by simp [ctOut, h]

theorem ctOut_of_not_done {s : State} (h : done s = false) : ctOut s = .error .ctOutUnspecified := by
  simp [ctOut, h]

end Sys2Proof.Machine
end

section
/-! PROOFS. The statements of 10_state.md: legal positions, registers nothing has written, `CT`, the
ports, the flags. -/

namespace Sys2Proof.Machine

/-! ## Legal positions -/

/-- At a legal position the micro-operation issued has a successor, a legal one (R36). -/
theorem nextPosition_legal {p : Position} {u : Instr} {start : Bool} (hl : p.legal = true)
    (hu : decode (issuedCode p start) = .ok u) :
    ∃ q, nextPosition u p = some q ∧ q.legal = true := by
  cases hw : waiting p.phase with
  | true =>
    rw [decode_issuedCode_of_waiting hw] at hu
    cases start with
    | true => cases hu; exact ⟨_, rfl, rfl⟩
    | false => cases hu; exact ⟨p, rfl, hl⟩
  | false =>
    have hrun : p.InRun := ⟨hl, fun hp => by simp [hp, waiting] at hw⟩
    have hleft : 0 < p.stepsLeft := by
      cases hp : p.phase with
      | idle | done => simp [hp, waiting] at hw
      | run => rw [stepsLeft_of_run hp]; omega
      | fin => rw [stepsLeft_of_fin hp]; omega
    obtain ⟨q, hq, hq', -⟩ := nextPosition_stepsLeft hrun hleft hu
    exact ⟨q, hq, hq'.legal⟩

theorem step_legal {s : State} (hl : s.pos.legal = true) :
    ∃ t, step s = .next t ∧ t.pos.legal = true := by
  cases hr : s.inputs.rst with
  | true => exact ⟨_, step_reset hr, by rw [drive_pos]; rfl⟩
  | false =>
    obtain ⟨u, hu⟩ := decode_issuedCode s.pos s.inputs.start
    obtain ⟨q, hq, hq'⟩ := nextPosition_legal hl hu
    obtain ⟨t, ht, rfl⟩ := step_pos_of_legal hl hr hu hq
    exact ⟨t, ht, hq'⟩

theorem runSteps_legal (n : Nat) {s : State} (hl : s.pos.legal = true) :
    ∃ t, runSteps n s = .next t ∧ t.pos.legal = true := by
  induction n generalizing s with
  | zero => exact ⟨s, rfl, hl⟩
  | succ n ih =>
    obtain ⟨s', hs, hl'⟩ := step_legal hl
    rw [runSteps_succ_of_next n hs]
    exact ih hl'

/-- In `FIN` and `DONE` a step reads neither `RND` nor `STEP` (R36). -/
theorem step_with_rnd_stp {s t : State} (r : BitVec 6) (k : BitVec 3)
    (hp : s.pos.phase = .fin ∨ s.pos.phase = .done) (h : step s = .next t) :
    ∃ t', step { s with pos := ⟨s.pos.phase, r, k⟩ } = .next t' ∧
      datapath t' = datapath t ∧ t'.ct = t.ct ∧ t'.pos.phase = t.pos.phase := by
  simp only [step_eq_next_iff] at h ⊢
  cases h with
  | reset hr => exact ⟨_, .reset hr, by simp [datapath]⟩
  | wait hr hw hs => exact ⟨_, .wait hr hw hs, by simp [datapath]⟩
  | load hr hw hs => exact ⟨_, .load hr hw hs, by simp [datapath]⟩
  | round hr hrun => simp [hrun] at hp
  | fin hr hfin => exact ⟨_, .fin hr hfin, by simp [datapath]⟩

/-- Settles O8: every issued micro-operation has a legal successor, and the reset position is legal. -/
theorem legalPositionsKept : Obligations.LegalPositionsKept := by
  refine ⟨fun s => step_legal, fun s n hr => ?_, fun s t r k => step_with_rnd_stp r k⟩
  have hl : (drive (applyReset s)).pos.legal = true := by rw [drive_pos]; rfl
  obtain ⟨t, ht, hlt⟩ := runSteps_legal n hl
  refine ⟨t, by rw [runSteps_succ_of_next n (step_reset hr), ht], hlt, ?_⟩
  exact Nat.le_of_lt_succ (rnd_lt_of_legal hlt)

/-- Settles O9: by evaluation of the reset state, whose position is `(IDLE, 0, 0)` (R34). -/
theorem resetStateIsLegal : Obligations.ResetStateIsLegal :=
  ⟨rfl, rfl, rfl, rfl, ctOut_of_not_done rfl⟩

/-! ## Registers nothing has written -/

/-- Agreeing states show the same (R26). -/
theorem Agree.outputs_eq {s t : State} (h : Agree s t) :
    busy s = busy t ∧ done s = done t ∧ ctOut s = ctOut t := by
  have hphase : s.pos.phase = t.pos.phase := congrArg _ h.pos
  have hdone := done_congr hphase
  refine ⟨busy_congr hphase, hdone, ?_⟩
  cases hd : done s with
  | true => rw [ctOut_of_done hd, ctOut_of_done (hdone ▸ hd), h.shown ((done_eq_true_iff s).mp hd)]
  | false => rw [ctOut_of_not_done hd, ctOut_of_not_done (hdone ▸ hd)]

theorem Agree.drive {s t : State} (h : Agree s t) : Agree (drive s) (drive t) where
  pos := by simpa using h.pos
  inputs := (drive_host_congr h.inputs h.schedule).1
  schedule := (drive_host_congr h.inputs h.schedule).2
  running := by simpa using h.running
  shown := by simpa using h.shown

/-- The step keeps the agreement: `LOAD` writes the whole datapath before a run reads it, and `FIN`
writes the whole of `CT` before `DONE` shows it (R35). -/
theorem Agree.step {s t s' : State} (h : Agree s t) (hs : step s = .next s') :
    ∃ t', step t = .next t' ∧ Agree s' t' := by
  obtain ⟨hpos, hin, hsch, hrunning, hshown⟩ := h
  simp only [step_eq_next_iff] at hs ⊢
  cases hs with
  | reset hr =>
    exact ⟨_, .reset (hin ▸ hr), Agree.drive ⟨rfl, hin, hsch, nofun, nofun⟩⟩
  | wait hr hw hstart =>
    exact ⟨_, .wait (hin ▸ hr) (hpos ▸ hw) (hin ▸ hstart),
      Agree.drive ⟨hpos, hin, hsch, hrunning, hshown⟩⟩
  | load hr hw hstart =>
    exact ⟨_, .load (hin ▸ hr) (hpos ▸ hw) (hin ▸ hstart),
      Agree.drive ⟨rfl, hin, hsch, fun _ => by simp [datapath, hin], nofun⟩⟩
  | round hr hp hu he hq =>
    have hd := hrunning (by rw [hp]; rfl)
    obtain ⟨t₁, ht, hd'⟩ := exec_seq_congr hu hd (by rw [hpos]) he
    obtain ⟨-, hsi, hss⟩ := exec_frame he
    obtain ⟨-, hti, hts⟩ := exec_frame ht
    refine ⟨_, .round (hin ▸ hr) (hpos ▸ hp) (hpos ▸ hu) ht (hpos ▸ hq),
      Agree.drive ⟨rfl, by rw [hsi, hti, hin], by rw [hss, hts, hsch], fun _ => hd', ?_⟩⟩
    exact fun hdone => absurd hdone (nextInRound_ne_done hp hq)
  | fin hr hp =>
    have hd := hrunning (by rw [hp]; rfl)
    refine ⟨_, .fin (hin ▸ hr) (hpos ▸ hp),
      Agree.drive ⟨by simp [hpos], hin, hsch, fun _ => hd, fun _ => congrArg Datapath.is hd⟩⟩

theorem Agree.runSteps (n : Nat) {s t s' : State} (h : Agree s t) (hs : runSteps n s = .next s') :
    ∃ t', runSteps n t = .next t' ∧ Agree s' t' := by
  induction n generalizing s t with
  | zero => cases hs; exact ⟨t, rfl, h⟩
  | succ n ih =>
    obtain ⟨s₁, hs₁, hrest⟩ := runSteps_succ_inv hs
    obtain ⟨t₁, ht₁, h₁⟩ := h.step hs₁
    rw [runSteps_succ_of_next n ht₁]
    exact ih h₁ hrest

/-- Settles O46: `Agree` is kept by every step and fixes the outputs. -/
theorem unwrittenRegistersNeverMatter : Obligations.UnwrittenRegistersNeverMatter :=
  ⟨fun _ _ => Agree.outputs_eq, fun _ _ _ => Agree.step, fun _ _ _ n => Agree.runSteps n⟩

/-! ## `CT` -/

/-- Settles O14: of the five kinds of step the read-out alone writes `CT`. -/
theorem onlyFinWritesCT : Obligations.OnlyFinWritesCT := by
  refine ⟨fun s t h => ?_, fun u s t c h => ?_⟩
  · cases step_eq_next_iff.mp h with
    | reset hr => exact .inr ⟨by simp [hr], by simp⟩
    | wait hr hw hs => exact .inr ⟨fun hf => by simp [hf, waiting] at hw, by simp⟩
    | load hr hw hs => exact .inr ⟨fun hf => by simp [hf, waiting] at hw, by simp⟩
    | round hr hp hu he hq => exact .inr ⟨by simp [hp], by simpa using exec_seq_ct hu he⟩
    | fin hr hp => exact .inl ⟨hp, hr, by simp⟩
  · obtain ⟨t', ht, hd⟩ := exec_congr (s := s) (t := { s with ct := c }) rfl rfl (fun _ => rfl) h
    exact ⟨t', ht, hd.symm, by rw [(exec_frame ht).1, (exec_frame h).1]⟩

/-! ## The ports -/

@[simp] theorem sameRegisters_drive (s t : State) :
    SameRegisters (drive s) (drive t) ↔ SameRegisters s t := by simp [SameRegisters]

/-- Settles O16: with `LOAD` excluded, no kind of step reads more of the ports than `rst` and, in a
waiting phase, `start`. -/
theorem portsReadOnlyByLoad : Obligations.PortsReadOnlyByLoad := by
  intro s t j h hj hports
  simp only [step_eq_next_iff] at h ⊢
  cases h with
  | reset hr => exact ⟨_, .reset (hj.trans hr), by simp [SameRegisters, datapath]⟩
  | wait hr hw hs =>
    have hjs : j.start = false := by simpa [hr, hw, hs] using hports
    exact ⟨_, .wait (hj.trans hr) hw hjs, by simp [SameRegisters, datapath]⟩
  | load hr hw hs => simp [hr, hw, hs] at hports
  | round hr hp hu he hq =>
    obtain ⟨t', ht, hd⟩ := exec_seq_congr (s := s) (t := { s with inputs := j }) hu rfl rfl he
    refine ⟨_, .round (s := { s with inputs := j }) (hj.trans hr) hp hu ht hq, ?_⟩
    rw [sameRegisters_drive]
    exact ⟨hd.symm, (exec_seq_ct hu ht).trans (exec_seq_ct hu he).symm, rfl⟩
  | fin hr hp => exact ⟨_, .fin (hj.trans hr) hp, by simp [SameRegisters, datapath]⟩

/-! ## The flags -/

/-- No micro-operation reads `PHASE` (R26, R82). -/
theorem exec_with_phase {u : Instr} {s t : State} (p : Phase) (h : exec u s = .next t) :
    exec u { s with pos := { s.pos with phase := p } } =
      .next { t with pos := { t.pos with phase := p } } := by
  obtain ⟨t', ht, hd⟩ :=
    exec_congr (s := s) (t := { s with pos := { s.pos with phase := p } }) rfl rfl (fun _ => rfl) h
  obtain ⟨hpos, hin, hsch⟩ := exec_frame h
  obtain ⟨hpos', hin', hsch'⟩ := exec_frame ht
  rw [ht]
  refine congrArg _ (state_ext hd.symm ?_ ?_ ?_ ?_)
  · rw [exec_ct ht]; exact (exec_ct h).symm
  · rw [hpos', hpos]
  · rw [hin', hin]
  · rw [hsch', hsch]

/-- Settles O13: the flags are functions of `PHASE`, which no micro-operation writes or reads. -/
theorem statusFlags : Obligations.StatusFlags := by
  refine ⟨busy_eq_true_iff, done_eq_true_iff, fun s => ctOut_of_done, fun s => ctOut_of_not_done,
    fun u s t h => ?_, fun u s t p => exec_with_phase p, rfl, rfl⟩
  have hphase : t.pos.phase = s.pos.phase := by rw [(exec_frame h).1]
  exact ⟨busy_congr hphase, done_congr hphase⟩

end Sys2Proof.Machine
end

section
/-! PROOFS. The packing of the data ports onto wires (20_memory.md R59): a vector is given by
its bytes. -/

namespace Sys2Proof.Machine

/-- The number of R59 is the one with the cells, last cell first, as its digits in base 256. -/
theorem bytesToNat_eq_ofDigits (l : List Cell) :
    bytesToNat l = Nat.ofDigits 256 (l.reverse.map BitVec.toNat) := by
  rw [bytesToNat, List.foldl_eq_foldr_reverse, Nat.ofDigits_eq_foldr, List.foldr_map]
  simp [Nat.add_comm]

/-- Byte `i` of the number of R59, counted from the top. -/
theorem bytesToNat_div_mod (l : List Cell) (i : Nat) (hi : i < l.length) :
    bytesToNat l / 256 ^ (l.length - 1 - i) % 256 = l[i].toNat := by
  have hdigits : ∀ d ∈ l.reverse.map BitVec.toNat, d < 256 := by
    intro d hd
    obtain ⟨c, -, rfl⟩ := List.mem_map.mp hd
    exact c.isLt
  have hlen : l.length - 1 - i < (l.reverse.map BitVec.toNat).length := by simp; omega
  have hget : (l.reverse.map BitVec.toNat)[l.length - 1 - i] = l[i].toNat := by
    simp [show l.length - 1 - (l.length - 1 - i) = i by omega]
  rw [bytesToNat_eq_ofDigits, Nat.ofDigits_div_pow_eq_ofDigits_drop _ (by decide) _ hdigits,
    List.drop_eq_getElem_cons hlen, Nat.ofDigits_cons, hget, Nat.add_mul_mod_self_left,
    Nat.mod_eq_of_lt l[i].isLt]

/-- Byte `i` of a list of cells on `n` wires (R59). -/
theorem extractLsb'_bytesToNat {n : Nat} (l : List Cell) (hn : n = 8 * l.length) (i : Nat)
    (hi : i < l.length) :
    (BitVec.ofNat n (bytesToNat l)).extractLsb' (n - 8 - 8 * i) 8 = l[i] := by
  apply BitVec.eq_of_toNat_eq
  have hshift : 2 ^ (n - 8 - 8 * i) = 256 ^ (l.length - 1 - i) := by
    rw [show n - 8 - 8 * i = 8 * (l.length - 1 - i) by omega, Nat.pow_mul]
  have hwidth : 2 ^ n = 2 ^ (n - 8 - 8 * i) * 2 ^ (8 * (i + 1)) := by
    rw [← Nat.pow_add]; congr 1; omega
  have hbyte : 2 ^ 8 ∣ 2 ^ (8 * (i + 1)) := Nat.pow_dvd_pow 2 (by omega)
  rw [BitVec.extractLsb'_toNat, BitVec.toNat_ofNat, Nat.shiftRight_eq_div_pow, hwidth,
    Nat.mod_mul_right_div_self, Nat.mod_mod_of_dvd _ hbyte, hshift]
  exact bytesToNat_div_mod l i hi

/-- Two values on wires with the same bytes are equal. -/
theorem eq_of_extractLsb'_bytes_eq {n m : Nat} (hn : n = 8 * m) {v w : BitVec n}
    (h : ∀ i < m, v.extractLsb' (n - 8 - 8 * i) 8 = w.extractLsb' (n - 8 - 8 * i) 8) : v = w := by
  apply BitVec.eq_of_getLsbD_eq
  intro k hk
  have hbyte := congrArg (fun c => c.getLsbD (k % 8)) (h (m - 1 - k / 8) (by omega))
  have hpos : n - 8 - 8 * (m - 1 - k / 8) + k % 8 = k := by omega
  simpa [hpos, Nat.mod_lt] using hbyte

theorem packBlock_byte (b : Block) (i : Fin 16) :
    (packBlock b).extractLsb' (120 - 8 * i.val) 8 = b[i] := by
  simpa [packBlock] using extractLsb'_bytesToNat b.toList (n := 128) (by simp) i (by simp)

theorem packTweakey_byte (k : TweakeyBlock) (i : Fin 48) :
    (packTweakey k).extractLsb' (376 - 8 * i.val) 8 = k[i] := by
  simpa [packTweakey] using extractLsb'_bytesToNat k.toList (n := 384) (by simp) i (by simp)

@[simp] theorem unpackBlock_getElem (w : BitVec 128) (i : Nat) (h : i < 16) :
    (unpackBlock w)[i] = w.extractLsb' (120 - 8 * i) 8 := by simp [unpackBlock]

@[simp] theorem unpackTweakey_getElem (w : BitVec 384) (i : Nat) (h : i < 48) :
    (unpackTweakey w)[i] = w.extractLsb' (376 - 8 * i) 8 := by simp [unpackTweakey]

/-- Settles O17: a packed vector has the cells as its bytes, and is determined by its bytes. -/
theorem portPacking : Obligations.PortPacking := by
  refine ⟨packBlock_byte, packTweakey_byte, fun b => ?_, fun w => ?_, fun k => ?_, fun w => ?_⟩
  · exact Vector.ext fun i hi => (unpackBlock_getElem _ i hi).trans (packBlock_byte b ⟨i, hi⟩)
  · exact eq_of_extractLsb'_bytes_eq (m := 16) rfl fun i hi =>
      (packBlock_byte _ ⟨i, hi⟩).trans (unpackBlock_getElem w i hi)
  · exact Vector.ext fun i hi => (unpackTweakey_getElem _ i hi).trans (packTweakey_byte k ⟨i, hi⟩)
  · exact eq_of_extractLsb'_bytes_eq (m := 48) rfl fun i hi =>
      (packTweakey_byte _ ⟨i, hi⟩).trans (unpackTweakey_getElem w i hi)

end Sys2Proof.Machine
end

section
/-! PROOFS. The tables S8, RC and PT against their recipes (20_memory.md R52, R54, R55). -/

namespace Sys2Proof.Machine

/-! ## The S-box -/

@[simp] theorem getElem_cellOfBits (x7 x6 x5 x4 x3 x2 x1 x0 : Bool) (i : Nat) (h : i < 8) :
    (cellOfBits x7 x6 x5 x4 x3 x2 x1 x0)[i] = [x0, x1, x2, x3, x4, x5, x6, x7][i] := by
  match i with
  | 0 | 1 | 2 | 3 | 4 | 5 | 6 | 7 =>
    rw [cellOfBits, ← BitVec.getLsbD_eq_getElem]
    simp only [BitVec.getLsbD_append, BitVec.getLsbD_ofBool]
    rfl

theorem cellOfBits_bits (x : Cell) : cellOfBits x[7] x[6] x[5] x[4] x[3] x[2] x[1] x[0] = x := by
  refine BitVec.eq_of_getElem_eq fun i hi => ?_
  rw [getElem_cellOfBits]
  match i with
  | 0 | 1 | 2 | 3 | 4 | 5 | 6 | 7 => rfl

theorem s8_eq_s8Recipe (x : Cell) : s8 x = s8Recipe x := by
  revert x
  decide +kernel

theorem s8RecipeMix_involutive : Function.Involutive s8RecipeMix := by
  intro x
  conv_rhs => rw [← cellOfBits_bits x]
  simp [s8RecipeMix]

theorem s8RecipeSwap_involutive : Function.Involutive s8RecipeSwap := by
  intro x
  conv_rhs => rw [← cellOfBits_bits x]
  simp [s8RecipeSwap]

/-- The bit permutation of R52 (b) has two cycles of four bits. -/
theorem s8RecipePermute_four_times (x : Cell) :
    s8RecipePermute (s8RecipePermute (s8RecipePermute (s8RecipePermute x))) = x := by
  conv_rhs => rw [← cellOfBits_bits x]
  simp [s8RecipePermute]

theorem s8RecipePermute_injective : Function.Injective s8RecipePermute :=
  Function.LeftInverse.injective (g := s8RecipePermute ∘ s8RecipePermute ∘ s8RecipePermute)
    s8RecipePermute_four_times

/-- The layers of the recipe are bijections, so the S-box takes every value once. -/
theorem s8_bijective : Function.Bijective s8 := by
  rw [← Finite.injective_iff_bijective, funext s8_eq_s8Recipe]
  have honce : Function.Injective fun x => s8RecipePermute (s8RecipeMix x) :=
    s8RecipePermute_injective.comp s8RecipeMix_involutive.injective
  exact s8RecipeSwap_involutive.injective.comp <| s8RecipeMix_involutive.injective.comp <|
    honce.comp <| honce.comp honce

/-- Settles O18: the table is the recipe's, cell by cell, and the recipe's layers are bijections. -/
theorem sboxBijectiveAndMatchesRecipe : Obligations.SboxBijectiveAndMatchesRecipe :=
  ⟨s8_bijective.existsUnique, s8_eq_s8Recipe⟩

/-! ## The round constants -/

/-- `RC` is a run of the shift register from its first entry on (R54). -/
theorem rc_succ : ∀ r : Fin 61, rc[r.val + 1] = rcUpdate rc[r.val] := by decide

theorem rc_eq_rcState (r : Nat) (h : r < 62) : rc[r] = rcState (r + 1) := by
  induction r with
  | zero => rfl
  | succ r ih => rw [rc_succ ⟨r, by omega⟩, ih (by omega)]; rfl

/-- Settles O19: by induction on the entry, each the update of the one before. -/
theorem roundConstantsMatchShiftRegister : Obligations.RoundConstantsMatchShiftRegister :=
  ⟨rfl, by decide, fun r => rc_eq_rcState r r.isLt⟩

/-! ## The lane permutation -/

/-- Repeated gathers follow the table: cell `i` comes from the index that `n` look-ups lead to. -/
theorem iterate_gather_getElem {t : Vector (Fin 16) 16} {n : Nat} {i j : Fin 16}
    (h : iterate t.get n i = j) (b : Block) : (iterate (gather t) n b)[i] = b[j] := by
  induction n generalizing i with
  | zero => obtain rfl : i = j := h; rfl
  | succ n ih =>
    rw [iterate_add _ n 1] at h
    exact (gather_getElem t _ i i.isLt).trans (ih h)

/-- The lane whose cell 0 alone is not zero. -/
def markedLane : Block := Vector.ofFn fun i => if i = 0 then 1 else 0

theorem markedLane_getElem_ne {i : Fin 16} (h : i ≠ 0) :
    markedLane[i] ≠ markedLane[(0 : Fin 16)] := by
  simp [markedLane, h]

theorem pt_iterate_sixteen : ∀ i : Fin 16, iterate pt.get 16 i = i := by decide

/-- `PT` is one cycle of length sixteen: index 0 comes back no sooner. -/
theorem pt_iterate_zero_ne : ∀ n < 16, 0 < n → iterate pt.get n 0 ≠ 0 := by decide

theorem iterate_permuteLane_sixteen (l : Block) : iterate permuteLane 16 l = l :=
  Vector.ext fun i hi => iterate_gather_getElem (pt_iterate_sixteen ⟨i, hi⟩) l

/-- Fewer applications bring another cell than the marked one to cell 0. -/
theorem iterate_permuteLane_markedLane_ne {n : Nat} (h0 : 0 < n) (hn : n < 16) :
    iterate permuteLane n markedLane ≠ markedLane := by
  intro h
  have hcell : (iterate permuteLane n markedLane)[(0 : Fin 16)] = _ := iterate_gather_getElem rfl _
  rw [h] at hcell
  exact markedLane_getElem_ne (pt_iterate_zero_ne n hn h0) hcell.symm

/-- Settles O20: applications of the permutation to a lane are look-ups in `PT`, one cycle of length
sixteen. -/
theorem lanePermutationOrder : Obligations.LanePermutationOrder :=
  ⟨rfl, by decide, by decide, by decide, iterate_permuteLane_sixteen,
    fun _ h0 hn => ⟨markedLane, iterate_permuteLane_markedLane_ne h0 hn⟩⟩

end Sys2Proof.Machine
end

section
/-! PROOFS. The handshake between host and engine, and several engines side by side (20_memory.md
R65, R68). -/

namespace Sys2Proof.Machine

/-! ## The handshake -/

/-- A position of the rounds leads to `done = 0`: only `FIN` enters `DONE` (R65 (b), R149). -/
theorem done_of_nextInRound {s : State} {p : Position} (hp : p.phase = .run)
    (h : nextInRound p = some s.pos) : done s = false := by
  rw [← Bool.not_eq_true, done_eq_true_iff]
  exact nextInRound_ne_done hp h

/-- Settles O15: of the five kinds of step the read-out alone enters `DONE`, and the start of a run
and the reset alone leave it. -/
theorem doneChangesOnlyByFinLoadReset : Obligations.DoneChangesOnlyByFinLoadReset := by
  intro s t h
  cases step_eq_next_iff.mp h with
  | reset hr =>
    rw [done_drive]
    exact ⟨nofun, fun _ _ => .inl hr, nofun⟩
  | wait hr hw hs =>
    rw [done_drive, ctOut_drive]
    exact ⟨fun h0 h1 => by simp [h0] at h1, fun h1 h0 => by simp [h0] at h1, fun _ _ => rfl⟩
  | load hr hw hs =>
    rw [done_drive]
    exact ⟨nofun, fun _ _ => .inr hs, nofun⟩
  | @round hr hp u t q hu he hq =>
    have h0 : done s = false := by simp [done, hp]
    have h1 : done { t with pos := q } = false := done_of_nextInRound hp hq
    rw [done_drive, h0, h1]
    exact ⟨nofun, nofun, nofun⟩
  | fin hr hp =>
    have h0 : done s = false := by simp [done, hp]
    rw [ctOut_drive, h0]
    exact ⟨fun _ _ => ⟨hp, hr, rfl⟩, nofun, nofun⟩

/-! ## Several engines -/

/-- What a step of engine `k` answers, in terms of that engine alone. -/
theorem stepEngine_eq_next_iff {n : Nat} {k : Fin n} {sys sys' : Vector State n} :
    stepEngine k sys = .next sys' ↔ ∃ t, step sys[k] = .next t ∧ sys' = sys.set k t := by
  unfold stepEngine
  cases step sys[k] with
  | next t => simp [eq_comm]
  | fault e => cases e
  | refused r => simp

/-- Settles O47: a step of an engine reads and writes its own place of the vector. -/
theorem enginesAreIndependent : Obligations.EnginesAreIndependent := by
  refine ⟨fun n sys sys' k j h hjk => ?_, fun n sys sys' a k hk h => ?_,
    fun n sys a b k j hjk ha hb => ?_⟩
  · obtain ⟨t, -, rfl⟩ := stepEngine_eq_next_iff.mp h
    exact Vector.getElem_set_ne k.isLt j.isLt (Fin.val_ne_of_ne hjk.symm)
  · obtain ⟨t, ht, rfl⟩ := stepEngine_eq_next_iff.mp h
    exact ⟨_, stepEngine_eq_next_iff.mpr ⟨t, hk ▸ ht, rfl⟩, by simp⟩
  · obtain ⟨t, ht, rfl⟩ := stepEngine_eq_next_iff.mp ha
    obtain ⟨u, hu, rfl⟩ := stepEngine_eq_next_iff.mp hb
    have hkj : k.val ≠ j.val := Fin.val_ne_of_ne hjk.symm
    refine ⟨(sys.set k t).set j u, stepEngine_eq_next_iff.mpr ⟨u, ?_, rfl⟩,
      stepEngine_eq_next_iff.mpr ⟨t, ?_, Vector.set_comm _ _ hkj⟩⟩
    · simpa [Vector.getElem_set_ne, hkj] using hu
    · simpa [Vector.getElem_set_ne, hkj.symm] using ht

end Sys2Proof.Machine
end

section
/-! PROOFS. The opcode table and programs as lists of codes (30_encoding.md R80, R81, R87), which
code is issued where (R84), and the placement of a table word. -/

namespace Sys2Proof

/-! ## Codes -/

@[simp] theorem decode_encode (i : Instr) : decode (encode i) = .ok i := by cases i <;> rfl

/-- The reserved codes are rejected by name (R87). -/
theorem decode_of_reserved {op : BitVec 4} (h : codeWellFormed op = false) :
    decode op = .error (.reservedCode op) := by
  revert op
  decide

/-- A code that is not reserved is the code of what it decodes to (R81). -/
theorem map_encode_decode {op : BitVec 4} (h : codeWellFormed op = true) :
    (decode op).map encode = .ok op := by
  revert op
  decide

theorem codeWellFormed_of_decode {op : BitVec 4} {i : Instr} (h : decode op = .ok i) :
    codeWellFormed op = true := by
  by_contra hw
  rw [decode_of_reserved (Bool.eq_false_of_not_eq_true hw)] at h
  cases h

theorem encode_of_decode {op : BitVec 4} {i : Instr} (h : decode op = .ok i) : encode i = op := by
  have hm := map_encode_decode (codeWellFormed_of_decode h)
  rw [h] at hm
  exact Except.ok.inj hm

theorem decode_eq_ok_iff {op : BitVec 4} {i : Instr} : decode op = .ok i ↔ encode i = op :=
  ⟨encode_of_decode, fun h => h ▸ decode_encode i⟩

/-- Every code that is not reserved is the code of a micro-operation (R81). -/
theorem exists_encode_eq {op : BitVec 4} (h : codeWellFormed op = true) : ∃ i, encode i = op := by
  have hm := map_encode_decode h
  cases hd : decode op with
  | ok i => exact ⟨i, encode_of_decode hd⟩
  | error e => rw [hd] at hm; cases hm

/-- Settles O1: each row of the table by evaluation, the reserved codes by the decoder's rejection. -/
theorem tableCodesDecode : Obligations.TableCodesDecode :=
  ⟨rfl, rfl, rfl, rfl, rfl, rfl, rfl, rfl, rfl, rfl, rfl, fun _ hop =>
    decode_of_reserved (decide_eq_false (Nat.not_le.mpr hop))⟩

/-! ## Programs -/

/-- A program is rejected for its first code when that is rejected. -/
theorem decodeProgram_cons_of_head_error {op : BitVec 4} {e : DecodeReject} (ops : List (BitVec 4))
    (h : decode op = .error e) : decodeProgram (op :: ops) = .error e := by
  simp [decodeProgram, h]

/-- A program whose first code is accepted is rejected for the reason the rest is. -/
theorem decodeProgram_cons_of_tail_error {op : BitVec 4} {ops : List (BitVec 4)} {i : Instr}
    {e : DecodeReject} (h : decode op = .ok i) (ht : decodeProgram ops = .error e) :
    decodeProgram (op :: ops) = .error e := by
  simp [decodeProgram, h, ht]

theorem decodeProgram_cons_eq_ok_iff {op : BitVec 4} {ops : List (BitVec 4)} {is : List Instr} :
    decodeProgram (op :: ops) = .ok is ↔
      ∃ i js, decode op = .ok i ∧ decodeProgram ops = .ok js ∧ is = i :: js := by
  cases hd : decode op with
  | error e => simp [decodeProgram_cons_of_head_error ops hd]
  | ok i =>
    cases ht : decodeProgram ops with
    | error e => simp [decodeProgram_cons_of_tail_error hd ht]
    | ok js => simp [decodeProgram, hd, ht, eq_comm]

theorem decodeProgram_encodeProgram (is : List Instr) :
    decodeProgram (encodeProgram is) = .ok is := by
  induction is with
  | nil => rfl
  | cons i is ih => exact decodeProgram_cons_eq_ok_iff.mpr ⟨i, is, decode_encode i, ih, rfl⟩

theorem encodeProgram_of_decodeProgram {ops : List (BitVec 4)} {is : List Instr}
    (h : decodeProgram ops = .ok is) : encodeProgram is = ops := by
  induction ops generalizing is with
  | nil => cases h; rfl
  | cons op ops ih =>
    obtain ⟨i, js, hi, hjs, rfl⟩ := decodeProgram_cons_eq_ok_iff.mp h
    exact congrArg₂ List.cons (encode_of_decode hi) (ih hjs)

/-- The first reserved code of a program is the one it is rejected by. -/
theorem decodeProgram_of_reserved_mem {ops : List (BitVec 4)}
    (h : ∃ op ∈ ops, codeWellFormed op = false) :
    ∃ op ∈ ops, codeWellFormed op = false ∧ decodeProgram ops = .error (.reservedCode op) := by
  induction ops with
  | nil => simp at h
  | cons op ops ih =>
    cases hw : codeWellFormed op with
    | false =>
      exact ⟨op, List.mem_cons_self, hw,
        decodeProgram_cons_of_head_error ops (decode_of_reserved hw)⟩
    | true =>
      obtain ⟨i, hi⟩ := exists_encode_eq hw
      obtain ⟨r, hr, hres, ht⟩ := ih (by simpa [hw] using h)
      exact ⟨r, List.mem_cons_of_mem op hr, hres,
        decodeProgram_cons_of_tail_error (decode_eq_ok_iff.mpr hi) ht⟩

/-- Settles O2: each part by induction on the list. -/
theorem programCodesRoundTrip : Obligations.ProgramCodesRoundTrip :=
  ⟨fun is _ => decodeProgram_encodeProgram is, fun _ _ => encodeProgram_of_decodeProgram,
    fun _ => decodeProgram_of_reserved_mem⟩

end Sys2Proof

namespace Sys2Proof.Machine

/-! ## A placed word -/

/-- A placed word's micro-operation is the one the sequencer issues, with `rst` low. -/
theorem withFetchWord_issues (s : State) {nbits w : Nat} {u : Instr}
    (h : decodeTableWord nbits w = some u) :
    (s.withFetchWord nbits w).inputs.rst = false ∧
      decode (issuedCode (s.withFetchWord nbits w).pos (s.withFetchWord nbits w).inputs.start) =
        .ok u := by
  unfold State.withFetchWord
  rw [h]
  cases u with
  | idle | load | sc | ac | artx | tkp | lf2 | lf3 | sr | mc | fin => exact ⟨rfl, rfl⟩

/-- Placing a word changes no register but the position. -/
theorem withFetchWord_sameRegisters (s : State) (nbits w : Nat) :
    SameRegisters { s.withFetchWord nbits w with pos := s.pos } s := by
  unfold State.withFetchWord
  split <;> exact ⟨rfl, rfl, rfl⟩

/-- Settles O4: the placed state issues the word's micro-operation. -/
theorem placedWordRunsNext : Obligations.PlacedWordRunsNext := by
  intro s nbits w u h
  obtain ⟨hrst, hissue⟩ := withFetchWord_issues s h
  exact ⟨step_run hrst hissue, withFetchWord_sameRegisters s nbits w⟩

/-! ## The codes issued -/

/-- A micro-operation's code, held in a byte, is its table word. -/
theorem decodeTableWord_encode (nbits : Nat) (u : Instr) :
    decodeTableWord nbits (encode u).toNat = some u := by cases u <;> rfl

/-- The code of every micro-operation is issued where its table word is placed. -/
theorem exists_issuedCode_eq_encode (u : Instr) : ∃ p start, issuedCode p start = encode u := by
  obtain ⟨-, h⟩ := withFetchWord_issues State.reset (decodeTableWord_encode 4 u)
  exact ⟨_, _, (encode_of_decode h).symm⟩

/-- Settles O3: the rows of the table by phase, and a code is issued exactly when it is not
reserved. -/
theorem completeIssueTable : Obligations.CompleteIssueTable := by
  refine ⟨fun r k => ?_, fun r k => ?_, fun r start => ?_, fun r k start => ?_, fun r k => ?_,
    fun r k => ?_, fun p start => ?_, fun op hop => ?_⟩
  · exact decode_issuedCode_of_waiting rfl false
  · exact decode_issuedCode_of_waiting rfl true
  · simp only [issuedCode_of_run]
    decide
  · exact decode_issuedCode_of_fin rfl start
  · exact decode_issuedCode_of_waiting rfl false
  · exact decode_issuedCode_of_waiting rfl true
  · obtain ⟨u, hu⟩ := decode_issuedCode p start
    exact of_decide_eq_true (codeWellFormed_of_decode hu)
  · obtain ⟨u, rfl⟩ := exists_encode_eq (decide_eq_true hop)
    exact exists_issuedCode_eq_encode u

end Sys2Proof.Machine
end

section
/-! PROOFS. The pseudo-operations as compositions of their parts (30_encoding.md R92). -/

namespace Sys2Proof.Machine

/-! ## `ROUND r` -/

/-- `ROUND r` in a round that exists computes the round function (R145). -/
theorem execRound_of_lt {r : BitVec 6} (h : r.toNat < 56) (s : State) :
    ∃ t, execRound r s = .next t ∧ datapath t = roundFunction ⟨r.toNat, h⟩ (datapath s) ∧
      t.ct = s.ct := by
  have hac : ∀ t : State, t.pos.rnd = r →
      exec .ac t = .next { t with is := addConstants ⟨r.toNat, h⟩ t.is } := by
    rintro t rfl
    exact exec_ac_of_lt h
  simp only [execRound, roundOps, execSeq, exec_sc, andThen_next, hac, exec_artx, exec_tkp,
    exec_lf2, exec_lf3, exec_sr, exec_mc]
  exact ⟨_, rfl, rfl, rfl⟩

/-- The same with the round number as `ENCRYPT` counts it. -/
theorem execRound_ofNat (r : Fin 56) (s : State) :
    ∃ t, execRound (BitVec.ofNat 6 r.val) s = .next t ∧
      datapath t = roundFunction r (datapath s) ∧ t.ct = s.ct := by
  have hr : (BitVec.ofNat 6 r.val).toNat = r.val := Nat.mod_eq_of_lt (by omega)
  simpa only [hr] using execRound_of_lt (r := BitVec.ofNat 6 r.val) (by omega) s

/-- `ROUND r` in a round that does not exist is refused by its `AC` (R172). -/
theorem execRound_of_ge {r : BitVec 6} (h : 56 ≤ r.toNat) (s : State) :
    execRound r s = .refused (.roundIndexOutOfRange r) := by
  simp only [execRound, roundOps, execSeq, exec_sc, andThen_next]
  rw [exec_ac_of_ge h, andThen_refused]

/-! ## `ENCRYPT` -/

/-- `ROUND 0` to `ROUND (n - 1)` compute the first `n` rounds (R152). -/
theorem execRounds_of_le (n : Nat) (h : n ≤ 56) (s : State) :
    ∃ t, execRounds n s = .next t ∧ datapath t = rounds n h (datapath s) ∧ t.ct = s.ct := by
  induction n with
  | zero => exact ⟨s, rfl, rfl, rfl⟩
  | succ n ih =>
    obtain ⟨t, ht, hd, hct⟩ := ih (by omega)
    obtain ⟨t', ht', hd', hct'⟩ := execRound_ofNat ⟨n, h⟩ t
    refine ⟨t', by rw [execRounds, ht, andThen_next, ht'], ?_, hct'.trans hct⟩
    rw [hd', hd, rounds_succ]

/-- `ENCRYPT` leaves the 56 rounds of what `LOAD` loaded, and the ciphertext in `CT` (R152). -/
theorem execPseudo_encrypt_completes (s : State) : ∃ t, execPseudo .encrypt s = .next t ∧
    datapath t = rounds 56 (Nat.le_refl 56) (loaded s.inputs.ptIn s.inputs.tkIn) ∧
    t.ct = encrypt s.inputs.ptIn s.inputs.tkIn := by
  obtain ⟨t, ht, hd, -⟩ := execRounds_of_le 56 (Nat.le_refl 56) { s with
    is := s.inputs.ptIn, tk1 := laneSlice 0 s.inputs.tkIn, tk2 := laneSlice 1 s.inputs.tkIn,
    tk3 := laneSlice 2 s.inputs.tkIn }
  refine ⟨{ t with ct := t.is }, ?_, hd, ?_⟩
  · rw [execPseudo_encrypt, exec_load, andThen_next, ht, andThen_next, exec_fin]
  · rw [encrypt_eq]
    exact congrArg Datapath.is hd

/-- `ENCRYPT` is `LOAD`, then `ROUND 0` to `ROUND 55` in order, then `FIN`. -/
theorem execPseudo_encrypt_eq_foldl (s : State) : execPseudo .encrypt s =
    andThen ((List.range 56).foldl
      (fun x r => andThen x (execPseudo (.round (BitVec.ofNat 6 r)))) (exec .load s)) (exec .fin) := by
  rw [execPseudo_encrypt, exec_load, andThen_next, execRounds_eq_foldl]

/-- The expansion of `ENCRYPT` is that of its parts, in order. -/
theorem expansion_encrypt : expansion .encrypt = [.load] ++ (List.range 56).flatMap
    (fun r => expansion (.round (BitVec.ofNat 6 r))) ++ [.fin] := by
  have hround : ∀ r, expansion (.round r) = roundOps := fun _ => rfl
  simp only [hround, List.flatMap_def, List.map_const', List.length_range]
  rfl

theorem length_expansion_encrypt : (expansion .encrypt).length = 450 := by
  simp only [expansion, List.length_cons, List.length_append, List.length_flatten,
    List.map_replicate, List.sum_replicate, List.length_nil]
  rfl

/-- Settles O42: a round that exists runs to its end, `ENCRYPT` runs 56 of them between `LOAD` and
`FIN`, and a round that does not exist stops at its `AC`. -/
theorem pseudoOperations : Obligations.PseudoOperations := by
  refine ⟨fun s => ?_, fun s => rfl, fun s r => rfl, fun s r => ?_, fun s r hr => ?_,
    execPseudo_encrypt_eq_foldl, execPseudo_encrypt_completes, rfl, rfl, fun r => rfl,
    expansion_encrypt, length_expansion_encrypt⟩
  · simp only [execPseudo, tkadvOps, execSeq, exec_tkp, exec_lf2, exec_lf3, andThen_next]
  · exact execRound_ofNat r s
  · exact execRound_of_ge (Nat.not_lt.mp (of_decide_eq_false hr)) s

end Sys2Proof.Machine
end

section
/-! PROOFS. The implicit operands: each micro-operation against its columns of the table of operands
(30_encoding.md R82). -/

namespace Sys2Proof.Machine

/-- Blocks that look the same cell by cell are equal. -/
theorem block_eq_of_toNat_eq {a b : Block} (h : ∀ i : Fin 16, a[i].toNat = b[i].toNat) : a = b :=
  Vector.ext fun i hi => BitVec.eq_of_toNat_eq (h ⟨i, hi⟩)

/-- `AC` changes cells 0, 4 and 8 only. -/
theorem addConstants_getElem_of_not_isConstantCell (r : Fin 56) (b : Block) {i : Fin 16}
    (h : isConstantCell i = false) : (addConstants r b)[i] = b[i] := by
  obtain ⟨⟨h0, h4⟩, h8⟩ : (i.val ≠ 0 ∧ i.val ≠ 4) ∧ i.val ≠ 8 := by
    simpa [isConstantCell] using h
  simp [addConstants, addConstant_getElem, h0, h4, h8]

/-- A cell after `AC` depends on that cell before it and on the round. -/
theorem addConstants_getElem_congr (r : Fin 56) {a b : Block} {i : Fin 16} (h : a[i] = b[i]) :
    (addConstants r a)[i] = (addConstants r b)[i] := by
  simp only [Fin.getElem_fin] at h ⊢
  simp only [addConstants, addConstant_getElem, h]

/-- A cell after `ARTX` depends on the cells at its index before it. -/
theorem addRoundTweakey_getElem_congr {a1 a2 a3 a b1 b2 b3 b : Block} {i : Fin 16}
    (h1 : a1[i] = b1[i]) (h2 : a2[i] = b2[i]) (h3 : a3[i] = b3[i]) (h : a[i] = b[i]) :
    (addRoundTweakey a1 a2 a3 a)[i] = (addRoundTweakey b1 b2 b3 b)[i] := by
  simp only [Fin.getElem_fin] at h1 h2 h3 h ⊢
  simp only [addRoundTweakey_getElem, h1, h2, h3, h]

/-- `ARTX` changes the top two rows only. -/
theorem addRoundTweakey_getElem_of_not_top (k1 k2 k3 b : Block) {i : Fin 16}
    (h : ¬ i.val < 8) : (addRoundTweakey k1 k2 k3 b)[i] = b[i] := by
  simp [addRoundTweakey_getElem, h]

/-- A cell after `LF2` or `LF3` depends on that cell before it. -/
theorem onTop_getElem_congr (f : Cell → Cell) {a b : Block} {i : Fin 16}
    (h : a[i] = b[i]) : (onTop f a)[i] = (onTop f b)[i] := by
  simp only [Fin.getElem_fin] at h ⊢
  simp only [onTop_getElem, h]

/-- The feedback shifts change the top two rows only. -/
theorem onTop_getElem_of_not_top (f : Cell → Cell) (b : Block) {i : Fin 16} (h : ¬ i.val < 8) :
    (onTop f b)[i] = b[i] := by
  simp [onTop_getElem, h]

/-- `AC` completes only in a round that exists. -/
theorem exec_ac_inv {s t : State} (h : exec .ac s = .next t) :
    ∃ hlt : s.pos.rnd.toNat < 56, { s with is := addConstants ⟨s.pos.rnd.toNat, hlt⟩ s.is } = t := by
  obtain hlt | hge := Nat.lt_or_ge s.pos.rnd.toNat 56
  · exact ⟨hlt, Host.Outcome.next.inj ((exec_ac_of_lt hlt).symm.trans h)⟩
  · rw [exec_ac_of_ge hge] at h; cases h

/-- A place that a micro-operation does not write keeps what it holds. -/
theorem look_exec_of_not_writes {u : Instr} {s t : State} (h : exec u s = .next t) {l : Loc}
    (hw : writes u l = false) : look t l = look s l := by
  cases u with
  | idle => cases h; rfl
  | load =>
    obtain rfl := Host.Outcome.next.inj h
    cases l with
    | is _ | tk1 _ | tk2 _ | tk3 _ => cases hw
    | ct _ | ptIn _ | tkIn _ | rnd => simp only [look]
  | sc | sr | mc =>
    obtain rfl := Host.Outcome.next.inj h
    cases l with
    | is _ => cases hw
    | tk1 _ | tk2 _ | tk3 _ | ct _ | ptIn _ | tkIn _ | rnd => simp only [look]
  | ac =>
    obtain ⟨hlt, rfl⟩ := exec_ac_inv h
    cases l with
    | is i => exact congrArg BitVec.toNat (addConstants_getElem_of_not_isConstantCell _ s.is hw)
    | tk1 _ | tk2 _ | tk3 _ | ct _ | ptIn _ | tkIn _ | rnd => simp only [look]
  | artx =>
    obtain rfl := Host.Outcome.next.inj h
    cases l with
    | is i =>
      exact congrArg BitVec.toNat
        (addRoundTweakey_getElem_of_not_top s.tk1 s.tk2 s.tk3 s.is (of_decide_eq_false hw))
    | tk1 _ | tk2 _ | tk3 _ | ct _ | ptIn _ | tkIn _ | rnd => simp only [look]
  | tkp =>
    obtain rfl := Host.Outcome.next.inj h
    cases l with
    | tk1 _ | tk2 _ | tk3 _ => cases hw
    | is _ | ct _ | ptIn _ | tkIn _ | rnd => simp only [look]
  | lf2 =>
    obtain rfl := Host.Outcome.next.inj h
    cases l with
    | tk2 i =>
      exact congrArg BitVec.toNat
        (onTop_getElem_of_not_top lf2Cell s.tk2 (of_decide_eq_false hw))
    | is _ | tk1 _ | tk3 _ | ct _ | ptIn _ | tkIn _ | rnd => simp only [look]
  | lf3 =>
    obtain rfl := Host.Outcome.next.inj h
    cases l with
    | tk3 i =>
      exact congrArg BitVec.toNat
        (onTop_getElem_of_not_top lf3Cell s.tk3 (of_decide_eq_false hw))
    | is _ | tk1 _ | tk2 _ | ct _ | ptIn _ | tkIn _ | rnd => simp only [look]
  | fin =>
    obtain rfl := Host.Outcome.next.inj h
    cases l with
    | ct _ => cases hw
    | is _ | tk1 _ | tk2 _ | tk3 _ | ptIn _ | tkIn _ | rnd => simp only [look]

/-- What a micro-operation writes is the same from two states that agree on the places it reads. -/
theorem look_exec_congr {u : Instr} {s s' t t' : State} (h : exec u s = .next t)
    (h' : exec u s' = .next t') (hr : ∀ l : Loc, reads u l = true → look s l = look s' l) {l : Loc}
    (hw : writes u l = true) : look t l = look t' l := by
  cases u with
  | idle => cases hw
  | load =>
    obtain rfl := Host.Outcome.next.inj h
    obtain rfl := Host.Outcome.next.inj h'
    have lane (k : Fin 3) (i : Fin 16) : (laneSlice k s.inputs.tkIn)[i].toNat =
        (laneSlice k s'.inputs.tkIn)[i].toNat := by
      simpa [look] using hr (.tkIn ⟨16 * k.val + i.val, by omega⟩) rfl
    cases l with
    | is i => exact hr (.ptIn i) rfl
    | tk1 i => exact lane 0 i
    | tk2 i => exact lane 1 i
    | tk3 i => exact lane 2 i
    | ct _ | ptIn _ | tkIn _ | rnd => cases hw
  | sc | sr | mc =>
    obtain rfl := Host.Outcome.next.inj h
    obtain rfl := Host.Outcome.next.inj h'
    have his : s.is = s'.is := block_eq_of_toNat_eq fun i => hr (.is i) rfl
    cases l with
    | is _ => simp only [look, his]
    | tk1 _ | tk2 _ | tk3 _ | ct _ | ptIn _ | tkIn _ | rnd => cases hw
  | ac =>
    obtain ⟨hlt, rfl⟩ := exec_ac_inv h
    obtain ⟨hlt', rfl⟩ := exec_ac_inv h'
    have hrnd : (⟨s.pos.rnd.toNat, hlt⟩ : Fin 56) = ⟨s'.pos.rnd.toNat, hlt'⟩ :=
      Fin.ext (hr .rnd rfl)
    cases l with
    | is i =>
      have hcell : s.is[i] = s'.is[i] := BitVec.eq_of_toNat_eq (hr (.is i) hw)
      simp only [look, hrnd, addConstants_getElem_congr _ hcell]
    | tk1 _ | tk2 _ | tk3 _ | ct _ | ptIn _ | tkIn _ | rnd => cases hw
  | artx =>
    obtain rfl := Host.Outcome.next.inj h
    obtain rfl := Host.Outcome.next.inj h'
    cases l with
    | is i =>
      have h0 : s.is[i] = s'.is[i] := BitVec.eq_of_toNat_eq (hr (.is i) hw)
      have h1 : s.tk1[i] = s'.tk1[i] := BitVec.eq_of_toNat_eq (hr (.tk1 i) hw)
      have h2 : s.tk2[i] = s'.tk2[i] := BitVec.eq_of_toNat_eq (hr (.tk2 i) hw)
      have h3 : s.tk3[i] = s'.tk3[i] := BitVec.eq_of_toNat_eq (hr (.tk3 i) hw)
      exact congrArg BitVec.toNat (addRoundTweakey_getElem_congr h1 h2 h3 h0)
    | tk1 _ | tk2 _ | tk3 _ | ct _ | ptIn _ | tkIn _ | rnd => cases hw
  | tkp =>
    obtain rfl := Host.Outcome.next.inj h
    obtain rfl := Host.Outcome.next.inj h'
    have h1 : s.tk1 = s'.tk1 := block_eq_of_toNat_eq fun i => hr (.tk1 i) rfl
    have h2 : s.tk2 = s'.tk2 := block_eq_of_toNat_eq fun i => hr (.tk2 i) rfl
    have h3 : s.tk3 = s'.tk3 := block_eq_of_toNat_eq fun i => hr (.tk3 i) rfl
    cases l with
    | tk1 _ | tk2 _ | tk3 _ => simp only [look, h1, h2, h3]
    | is _ | ct _ | ptIn _ | tkIn _ | rnd => cases hw
  | lf2 =>
    obtain rfl := Host.Outcome.next.inj h
    obtain rfl := Host.Outcome.next.inj h'
    cases l with
    | tk2 i =>
      exact congrArg BitVec.toNat
        (onTop_getElem_congr lf2Cell (BitVec.eq_of_toNat_eq (hr (.tk2 i) hw)))
    | is _ | tk1 _ | tk3 _ | ct _ | ptIn _ | tkIn _ | rnd => cases hw
  | lf3 =>
    obtain rfl := Host.Outcome.next.inj h
    obtain rfl := Host.Outcome.next.inj h'
    cases l with
    | tk3 i =>
      exact congrArg BitVec.toNat
        (onTop_getElem_congr lf3Cell (BitVec.eq_of_toNat_eq (hr (.tk3 i) hw)))
    | is _ | tk1 _ | tk2 _ | ct _ | ptIn _ | tkIn _ | rnd => cases hw
  | fin =>
    obtain rfl := Host.Outcome.next.inj h
    obtain rfl := Host.Outcome.next.inj h'
    cases l with
    | ct i => exact hr (.is i) rfl
    | is _ | tk1 _ | tk2 _ | tk3 _ | ptIn _ | tkIn _ | rnd => cases hw

/-- Settles O44: each micro-operation against its columns of written and read places. -/
theorem implicitOperands : Obligations.ImplicitOperands :=
  ⟨fun _ _ _ h => ⟨fun _ => look_exec_of_not_writes h, exec_frame h⟩,
    fun _ _ _ _ _ h h' hr _ => look_exec_congr h h' hr⟩

end Sys2Proof.Machine
end

section
/-! PROOFS. Blocks as vectors over GF(2) and as four rows of four cells: the exclusive or of blocks,
gathers, and which position of the sequencer issues a micro-operation of `SEQ`. -/

namespace Sys2Proof.Machine

/-! ## The exclusive or -/

theorem cell_xor_left_comm (x y z : Cell) : x ^^^ (y ^^^ z) = y ^^^ (x ^^^ z) := by
  rw [← BitVec.xor_assoc, BitVec.xor_comm x, BitVec.xor_assoc]

theorem xorBlock_right_comm (a b c : Block) :
    xorBlock (xorBlock a b) c = xorBlock (xorBlock a c) b := by
  refine Vector.ext fun i hi => ?_
  simp only [xorBlock_getElem, BitVec.xor_assoc, BitVec.xor_comm b[i]]

theorem xorBlock_xorBlock_cancel_right (a b : Block) : xorBlock (xorBlock a b) b = a := by
  refine Vector.ext fun i hi => ?_
  simp only [xorBlock_getElem, BitVec.xor_assoc, BitVec.xor_self, BitVec.xor_zero]

@[simp] theorem cellAt_xorBlock (a b : Block) (row col : Fin 4) :
    cellAt (xorBlock a b) row col = cellAt a row col ^^^ cellAt b row col :=
  xorBlock_getElem a b _ _

/-- A gather moves cells and does not look at them, so it is linear (R109). -/
theorem gather_xorBlock (t : Vector (Fin 16) 16) (a b : Block) :
    gather t (xorBlock a b) = xorBlock (gather t a) (gather t b) :=
  Vector.ext fun i hi => by simp

/-! ## Rows and columns -/

/-- A relation between the cells of two blocks, by index or by row and column. -/
theorem forall_getElem_iff_forall_cellAt {p : Cell → Cell → Prop} {a b : Block} :
    (∀ i : Fin 16, p a[i] b[i]) ↔ ∀ row col, p (cellAt a row col) (cellAt b row col) := by
  refine ⟨fun h row col => h ⟨4 * row.val + col.val, by omega⟩, fun h i => ?_⟩
  have hi : 4 * (i.val / 4) + i.val % 4 = i.val := by omega
  simpa [cellAt, hi] using h ⟨i.val / 4, by omega⟩ ⟨i.val % 4, by omega⟩

/-! ## The position that issues a micro-operation of a round -/

/-- The entries of `SEQ` differ (R83). -/
theorem seqCode_injective : ∀ j k : BitVec 3, seqCode j = seqCode k → j = k := by decide

/-- A micro-operation of `SEQ` is issued at its place there and nowhere else: the other phases issue
micro-operations of the driver (R83, R84). -/
theorem issuedAtStep_of_seqCode {u : Instr} {k : BitVec 3} (h : seqCode k = encode u) :
    IssuedAtStep u (encode u) k := by
  obtain ⟨hidle, hload, hfin⟩ := decode_seqCode_ne_driver k
  rw [h, decode_encode] at hidle hload hfin
  refine ⟨rfl, fun p start => ?_⟩
  cases hp : p.phase with
  | idle | done =>
    rw [decode_issuedCode_of_waiting (by rw [hp]; rfl)]
    cases start with
    | true => simpa using hload.symm
    | false => simpa using hidle.symm
  | run =>
    have hseq : seqCode k = seqCode p.stp ↔ p.stp = k :=
      ⟨fun he => (seqCode_injective _ _ he).symm, fun he => congrArg _ he.symm⟩
    rw [issuedCode_of_run hp, decode_eq_ok_iff, ← h, hseq]
    simp
  | fin => simpa [decode_issuedCode_of_fin hp] using hfin.symm

end Sys2Proof.Machine
end

section
/-! PROOFS. The five micro-operations of the round function, one by one (40_round_function.md R100 to
R106). -/

namespace Sys2Proof.Machine

/-- Settles O21: each writes `IS` with a function of the registers, which are no ports. -/
theorem roundOperationsTouchOnlyIS : Obligations.RoundOperationsTouchOnlyIS := by
  intro u hu s hac
  cases u with
  | ac =>
    have hlt : s.pos.rnd.toNat < 56 := Nat.lt_succ_of_le (hac rfl)
    exact ⟨_, exec_ac_of_lt hlt, fun j => exec_ac_of_lt (s := { s with inputs := j }) hlt⟩
  | sc | artx | sr | mc => exact ⟨_, rfl, fun _ => rfl⟩
  | idle | load | tkp | lf2 | lf3 | fin => simp at hu

/-! ## SubCells -/

/-- The cells are substituted one by one, each by a bijection. -/
theorem subCells_bijective : Function.Bijective subCells := by
  obtain ⟨g, hleft, hright⟩ := Function.bijective_iff_has_inverse.mp s8_bijective
  refine Function.bijective_iff_has_inverse.mpr ⟨Vector.map g, fun b => ?_, fun b => ?_⟩
  · exact Vector.ext fun i hi => by simp [hleft b[i]]
  · exact Vector.ext fun i hi => by simp [hright b[i]]

theorem subCells_getElem_congr {a b : Block} {i : Fin 16} (h : a[i] = b[i]) :
    (subCells a)[i] = (subCells b)[i] := by
  rw [Fin.getElem_fin, subCells_getElem, Fin.getElem_fin, subCells_getElem]
  exact congrArg s8 h

/-- Settles O22: by the cells of `subCells` and the bijection `S8`. -/
theorem subCellsRule : Obligations.SubCellsRule :=
  ⟨issuedAtStep_of_seqCode rfl,
    fun s => ⟨_, exec_sc s, fun i => subCells_getElem s.is i i.isLt⟩,
    rfl, rfl, fun _ => s8_bijective.injective.eq_iff' rfl,
    fun _ _ _ => subCells_getElem_congr, subCells_bijective, by decide⟩

/-! ## AddConstants -/

/-- AddConstants is an exclusive or with a block that depends on the round alone (R102). -/
theorem addConstants_eq_xorBlock (r : Fin 56) (b : Block) :
    addConstants r b = xorBlock b (addConstants r (Vector.replicate 16 0)) := by
  refine Vector.ext fun i hi => ?_
  simp only [addConstants, xorBlock_getElem, addConstant_getElem, Vector.getElem_replicate]
  split_ifs <;> simp

theorem addConstants_addConstants (r : Fin 56) (b : Block) :
    addConstants r (addConstants r b) = b := by
  rw [addConstants_eq_xorBlock r (addConstants r b), addConstants_eq_xorBlock r b,
    xorBlock_xorBlock_cancel_right]

/-- `AC` in round `r`. -/
theorem exec_ac_of_rnd_eq {s : State} {r : Fin 56} (h : s.pos.rnd.toNat = r.val) :
    exec .ac s = .next { s with is := addConstants r s.is } := by
  obtain ⟨n, hlt⟩ := r
  obtain rfl : s.pos.rnd.toNat = n := h
  exact exec_ac_of_lt hlt

theorem isConstantCell_eq_false : ∀ i : Fin 16, i ≠ 0 → i ≠ 4 → i ≠ 8 →
    isConstantCell i = false := by decide

/-- `c0` is the low four bits of the round constant (R85). -/
theorem rcC0_eq (k : BitVec 6) : rcC0 k = (k &&& 0x0F).setWidth 8 := by
  revert k
  decide

/-- `c1` is the high two bits of the round constant (R85). -/
theorem rcC1_eq (k : BitVec 6) : rcC1 k = ((k >>> 4) &&& 0x03).setWidth 8 := by
  revert k
  decide

theorem rcC0_and_F0 (k : BitVec 6) : rcC0 k &&& 0xF0 = 0 := by
  revert k
  decide

theorem rcC1_and_FC (k : BitVec 6) : rcC1 k &&& 0xFC = 0 := by
  revert k
  decide

/-- An exclusive or with a constant changes the bits of the constant only. -/
theorem xor_xor_self_and_eq_zero {c m : Cell} (x : Cell) (h : c &&& m = 0) :
    (x ^^^ c ^^^ x) &&& m = 0 := by
  rw [BitVec.xor_comm, ← BitVec.xor_assoc, BitVec.xor_self, BitVec.zero_xor, h]

/-- Settles O23: by the cells of `addConstants`, an exclusive or with a block. -/
theorem addConstantsRule : Obligations.AddConstantsRule := by
  refine ⟨issuedAtStep_of_seqCode rfl, fun s r hr => ?_, fun s => exec_ac_of_ge, by decide,
    by decide, by decide⟩
  have h0 : (addConstants r s.is)[0] = s.is[0] ^^^ rcC0 rc[r.val] := by
    simp [addConstants, addConstant_getElem]
  have h4 : (addConstants r s.is)[4] = s.is[4] ^^^ rcC1 rc[r.val] := by
    simp [addConstants, addConstant_getElem]
  have h8 : (addConstants r s.is)[8] = s.is[8] ^^^ 0x02 := by
    simp [addConstants, addConstant_getElem, Config.c2]
  refine ⟨addConstants r s.is, exec_ac_of_rnd_eq hr, by rw [h0, rcC0_eq], by rw [h4, rcC1_eq], h8,
    fun i hi0 hi4 hi8 => ?_, ?_, ?_, ?_, ?_⟩
  · exact addConstants_getElem_of_not_isConstantCell r s.is
      (isConstantCell_eq_false i hi0 hi4 hi8)
  · rw [h0]; exact xor_xor_self_and_eq_zero _ (rcC0_and_F0 _)
  · rw [h4]; exact xor_xor_self_and_eq_zero _ (rcC1_and_FC _)
  · rw [h8]; exact xor_xor_self_and_eq_zero _ (by decide)
  · rw [exec_ac_of_rnd_eq (s := { s with is := addConstants r s.is }) hr, addConstants_addConstants]

/-! ## The XOR of AddRoundTweakey -/

/-- ARTX is an exclusive or with a block that depends on the lanes alone (R103). -/
theorem addRoundTweakey_eq_xorBlock (k1 k2 k3 b : Block) :
    addRoundTweakey k1 k2 k3 b =
      xorBlock b (addRoundTweakey k1 k2 k3 (Vector.replicate 16 0)) := by
  refine Vector.ext fun i hi => ?_
  simp only [xorBlock_getElem, addRoundTweakey_getElem, Vector.getElem_replicate]
  split_ifs <;> simp [BitVec.xor_assoc]

theorem addRoundTweakey_getElem_of_top (k1 k2 k3 b : Block) {j : Fin 16} (h : j.val < 8) :
    (addRoundTweakey k1 k2 k3 b)[j] = b[j] ^^^ k1[j] ^^^ k2[j] ^^^ k3[j] := by
  simp [addRoundTweakey_getElem, h]

theorem addRoundTweakey_getElem_of_xor_eq_zero {k1 k2 k3 : Block} (b : Block) {j : Fin 16}
    (h : k1[j] ^^^ k2[j] ^^^ k3[j] = 0) : (addRoundTweakey k1 k2 k3 b)[j] = b[j] := by
  by_cases hj : j.val < 8
  · rw [addRoundTweakey_getElem_of_top _ _ _ _ hj, BitVec.xor_assoc, BitVec.xor_assoc,
      ← BitVec.xor_assoc k1[j], h]
    exact BitVec.xor_zero
  · exact addRoundTweakey_getElem_of_not_top _ _ _ _ hj

theorem addRoundTweakey_zero_lanes (b : Block) :
    addRoundTweakey (Vector.replicate 16 0) (Vector.replicate 16 0) (Vector.replicate 16 0) b = b :=
  Vector.ext fun i hi => addRoundTweakey_getElem_of_xor_eq_zero b (j := ⟨i, hi⟩) (by simp)

/-- Lanes that agree on their top two rows are the same to ARTX (R103). -/
theorem addRoundTweakey_congr_top {k1 k2 k3 l1 l2 l3 : Block} (b : Block)
    (h : ∀ j : Fin 16, j.val < 8 → l1[j] = k1[j] ∧ l2[j] = k2[j] ∧ l3[j] = k3[j]) :
    addRoundTweakey l1 l2 l3 b = addRoundTweakey k1 k2 k3 b := by
  refine Vector.ext fun i hi => ?_
  by_cases hj : i < 8
  · obtain ⟨h1, h2, h3⟩ := h ⟨i, hi⟩ hj
    exact addRoundTweakey_getElem_congr h1 h2 h3 rfl
  · exact (addRoundTweakey_getElem_of_not_top l1 l2 l3 b (i := ⟨i, hi⟩) hj).trans
      (addRoundTweakey_getElem_of_not_top k1 k2 k3 b (i := ⟨i, hi⟩) hj).symm

/-- Settles O24: by the cells of `addRoundTweakey`. -/
theorem addRoundTweakeyRule : Obligations.AddRoundTweakeyRule := by
  refine ⟨issuedAtStep_of_seqCode rfl, fun s => ⟨_, exec_artx s, ?_, ?_, ?_⟩,
    fun s h1 h2 h3 => ?_, fun s _ => addRoundTweakey_congr_top s.is, by decide⟩
  · exact fun j => addRoundTweakey_getElem_of_top _ _ _ _
  · exact fun j hj => addRoundTweakey_getElem_of_not_top _ _ _ _ (Nat.not_lt.mpr hj)
  · exact fun j => addRoundTweakey_getElem_of_xor_eq_zero s.is
  · have his : addRoundTweakey s.tk1 s.tk2 s.tk3 s.is = s.is := by
      rw [h1, h2, h3, addRoundTweakey_zero_lanes]
    rw [exec_artx, his]

/-! ## ShiftRows -/

/-- `SRI` rotates row `r` right by `r` places (R104). -/
theorem sri_eq : ∀ row col : Fin 4, sri.get ⟨4 * row.val + col.val, by omega⟩ =
    ⟨4 * row.val + (col - row).val, by omega⟩ := by decide

@[simp] theorem cellAt_shiftRows (b : Block) (row col : Fin 4) :
    cellAt (shiftRows b) row col = cellAt b row (col - row) :=
  iterate_gather_getElem (n := 1) (sri_eq row col) b

theorem iterate_shiftRows_four (b : Block) : iterate shiftRows 4 b = b := by
  have hsri : ∀ i : Fin 16, iterate sri.get 4 i = i := by decide
  exact Vector.ext fun i hi => iterate_gather_getElem (hsri ⟨i, hi⟩) b

/-- Three rotations more undo a rotation. -/
theorem shiftRows_bijective : Function.Bijective shiftRows :=
  Function.bijective_iff_has_inverse.mpr
    ⟨iterate shiftRows 3, iterate_shiftRows_four, iterate_shiftRows_four⟩

/-- The block in which every cell holds the number of its column. -/
def columnNumbers : Block := ofRows fun _ col => BitVec.ofNat 8 col.val

/-- Settles O25: by the source of each cell, `new[row][col] = old[row][(col - row) mod 4]`. -/
theorem shiftRowsRule : Obligations.ShiftRowsRule := by
  refine ⟨issuedAtStep_of_seqCode rfl,
    fun s => ⟨_, exec_sr s, rfl, cellAt_shiftRows s.is⟩, iterate_shiftRows_four,
    shiftRows_bijective, fun b col => ?_, fun row hrow => ⟨columnNumbers, 0, ?_⟩, fun f => ?_,
    by decide⟩
  · have hcol : col - 2 - 2 = col := by revert col; decide
    rw [cellAt_shiftRows, cellAt_shiftRows, hcol]
  · rw [cellAt_shiftRows, cellAt_shiftRows, columnNumbers, cellAt_ofRows, cellAt_ofRows]
    revert row
    decide
  · exact block_ext_cellAt fun row col => by simp

/-! ## MixColumns -/

@[simp] theorem cellAt_zero_mixColumns (b : Block) (c : Fin 4) :
    cellAt (mixColumns b) 0 c = cellAt b 0 c ^^^ cellAt b 2 c ^^^ cellAt b 3 c :=
  cellAt_ofRows _ 0 c

@[simp] theorem cellAt_one_mixColumns (b : Block) (c : Fin 4) :
    cellAt (mixColumns b) 1 c = cellAt b 0 c := cellAt_ofRows _ 1 c

@[simp] theorem cellAt_two_mixColumns (b : Block) (c : Fin 4) :
    cellAt (mixColumns b) 2 c = cellAt b 1 c ^^^ cellAt b 2 c := cellAt_ofRows _ 2 c

@[simp] theorem cellAt_three_mixColumns (b : Block) (c : Fin 4) :
    cellAt (mixColumns b) 3 c = cellAt b 0 c ^^^ cellAt b 2 c := cellAt_ofRows _ 3 c

@[simp] theorem cellAt_zero_unmixColumns (b : Block) (c : Fin 4) :
    cellAt (unmixColumns b) 0 c = cellAt b 1 c := cellAt_ofRows _ 0 c

@[simp] theorem cellAt_one_unmixColumns (b : Block) (c : Fin 4) :
    cellAt (unmixColumns b) 1 c = cellAt b 2 c ^^^ (cellAt b 1 c ^^^ cellAt b 3 c) :=
  cellAt_ofRows _ 1 c

@[simp] theorem cellAt_two_unmixColumns (b : Block) (c : Fin 4) :
    cellAt (unmixColumns b) 2 c = cellAt b 1 c ^^^ cellAt b 3 c := cellAt_ofRows _ 2 c

@[simp] theorem cellAt_three_unmixColumns (b : Block) (c : Fin 4) :
    cellAt (unmixColumns b) 3 c = cellAt b 0 c ^^^ cellAt b 3 c := cellAt_ofRows _ 3 c

theorem unmixColumns_mixColumns (b : Block) : unmixColumns (mixColumns b) = b := by
  refine block_ext_cellAt fun row c => ?_
  match row with
  | 0 => simp
  | 1 | 2 | 3 => simp [BitVec.xor_assoc, BitVec.xor_comm, cell_xor_left_comm]

theorem mixColumns_unmixColumns (b : Block) : mixColumns (unmixColumns b) = b := by
  refine block_ext_cellAt fun row c => ?_
  match row with
  | 1 => simp
  | 0 | 2 | 3 => simp [BitVec.xor_assoc, BitVec.xor_comm, cell_xor_left_comm]

theorem cellAt_mixColumns_congr {a b : Block} {c : Fin 4}
    (h : ∀ row, cellAt a row c = cellAt b row c) (row : Fin 4) :
    cellAt (mixColumns a) row c = cellAt (mixColumns b) row c := by
  match row with
  | 0 | 1 | 2 | 3 => simp [h]

/-- The closed form is an exclusive or of cells, so it works on each bit position by itself (R105). -/
theorem getLsbD_mixColumns_congr {a b : Block} {k : Nat}
    (h : ∀ i : Fin 16, a[i].getLsbD k = b[i].getLsbD k) (i : Fin 16) :
    (mixColumns a)[i].getLsbD k = (mixColumns b)[i].getLsbD k := by
  revert i
  rw [forall_getElem_iff_forall_cellAt (p := fun x y => x.getLsbD k = y.getLsbD k)] at h ⊢
  intro row c
  match row with
  | 0 | 1 | 2 | 3 => simp [h]

/-- Settles O26: by the cells of `mixColumns` and its inverse, row by row. -/
theorem mixColumnsRule : Obligations.MixColumnsRule :=
  ⟨issuedAtStep_of_seqCode rfl,
    fun s => ⟨_, exec_mc s, fun c => ⟨cellAt_zero_mixColumns s.is c, cellAt_one_mixColumns s.is c,
      cellAt_two_mixColumns s.is c, cellAt_three_mixColumns s.is c⟩⟩,
    fun _ _ _ => cellAt_mixColumns_congr, fun _ _ _ => getLsbD_mixColumns_congr,
    unmixColumns_mixColumns, mixColumns_unmixColumns, by decide, by decide⟩

/-- Settles O27: row by row, the terms the matrix keeps are those of the closed form. -/
theorem mixColumnsMatrixFormEqual : Obligations.MixColumnsMatrixFormEqual := by
  refine fun b => block_ext_cellAt fun row c => ?_
  rw [mixColumnsMatrix, cellAt_ofRows]
  match row with
  | 0 | 1 | 2 | 3 => simp [mixMatrix, mixProduct]

end Sys2Proof.Machine
end

section
/-! PROOFS. The laws of the round function: which micro-operations are linear, and which can be
exchanged (40_round_function.md R107, R109). -/

namespace Sys2Proof.Machine

/-! ## Linearity -/

theorem mixColumns_xorBlock (a b : Block) :
    mixColumns (xorBlock a b) = xorBlock (mixColumns a) (mixColumns b) := by
  refine block_ext_cellAt fun row c => ?_
  match row with
  | 0 | 1 | 2 | 3 => simp [BitVec.xor_assoc, cell_xor_left_comm]

theorem addConstants_xorBlock (r : Fin 56) (a b : Block) :
    addConstants r (xorBlock a b) = xorBlock (addConstants r a) b := by
  rw [addConstants_eq_xorBlock, addConstants_eq_xorBlock r a, xorBlock_right_comm]

theorem addRoundTweakey_xorBlock (k1 k2 k3 a b : Block) :
    addRoundTweakey k1 k2 k3 (xorBlock a b) = xorBlock (addRoundTweakey k1 k2 k3 a) b := by
  rw [addRoundTweakey_eq_xorBlock, addRoundTweakey_eq_xorBlock k1 k2 k3 a, xorBlock_right_comm]

/-- Settles O29: SR moves cells, MC, AC and ARTX are exclusive ors, and `S8` at 3 is not what an
affine function with its values at 0, 1 and 2 would give. -/
theorem onlySubCellsIsNonLinear : Obligations.OnlySubCellsIsNonLinear :=
  ⟨gather_xorBlock sri, mixColumns_xorBlock, addConstants_xorBlock, addRoundTweakey_xorBlock,
    Vector.replicate 16 1, Vector.replicate 16 2, by decide⟩

/-! ## Exchanges -/

/-- AC and ARTX are exclusive ors with blocks, and the block of each is not changed by the other. -/
theorem addRoundTweakey_addConstants (k1 k2 k3 : Block) (r : Fin 56) (b : Block) :
    addRoundTweakey k1 k2 k3 (addConstants r b) = addConstants r (addRoundTweakey k1 k2 k3 b) := by
  rw [addConstants_eq_xorBlock r b, addRoundTweakey_xorBlock, ← addConstants_eq_xorBlock]

/-- `AC` and `ARTX` commute in every state, a refusal included (R107 (a)). -/
theorem exec_ac_artx_comm (s : State) :
    andThen (exec .ac s) (exec .artx) = andThen (exec .artx s) (exec .ac) := by
  simp only [exec_artx, andThen_next]
  obtain hlt | hge := Nat.lt_or_ge s.pos.rnd.toNat 56
  · rw [exec_ac_of_lt hlt, exec_ac_of_lt (by exact hlt), andThen_next, exec_artx,
      addRoundTweakey_addConstants]
  · rw [exec_ac_of_ge hge, exec_ac_of_ge (by exact hge), andThen_refused]

/-- `SR` and `MC` work on `IS` alone. -/
theorem exec_sr_mc_eq {u : Instr} (hu : u ∈ [Instr.sr, .mc]) :
    ∃ f : Block → Block, ∀ s, exec u s = .next { s with is := f s.is } := by
  obtain rfl | rfl : u = .sr ∨ u = .mc := by simpa using hu
  · exact ⟨_, exec_sr⟩
  · exact ⟨_, exec_mc⟩

/-- The lane advance works on each lane alone. -/
theorem exec_tkp_lf2_lf3_eq {v : Instr} (hv : v ∈ [Instr.tkp, .lf2, .lf3]) :
    ∃ f1 f2 f3 : Block → Block, ∀ s, exec v s =
      .next { s with tk1 := f1 s.tk1, tk2 := f2 s.tk2, tk3 := f3 s.tk3 } := by
  obtain rfl | rfl | rfl : v = .tkp ∨ v = .lf2 ∨ v = .lf3 := by simpa using hv
  · exact ⟨_, _, _, exec_tkp⟩
  · exact ⟨id, _, id, exec_lf2⟩
  · exact ⟨id, id, _, exec_lf3⟩

/-- An engine at the start of round 0 with data on which every harmful exchange shows. -/
def orderState : State :=
  { is := columnNumbers
    tk1 := Vector.replicate 16 1
    tk2 := Vector.replicate 16 0
    tk3 := Vector.replicate 16 0
    ct := Vector.replicate 16 0
    pos := ⟨.run, 0, 0⟩
    inputs := Inputs.quiet
    schedule := [] }

/-- An exchange shows when it leaves another `IS`. -/
theorem andThen_exec_ne_of_is_ne {u v : Instr} {s t t' : State}
    (h : andThen (exec u s) (exec v) = .next t) (h' : andThen (exec v s) (exec u) = .next t')
    (hne : t.is ≠ t'.is) : andThen (exec u s) (exec v) ≠ andThen (exec v s) (exec u) := by
  rw [h, h']
  exact fun he => hne (congrArg State.is (Host.Outcome.next.inj he))

/-- Settles O28: the harmless exchanges are of exclusive ors, or of functions of different registers;
the harmful ones show in `orderState`. -/
theorem harmlessAndHarmfulReorderings : Obligations.HarmlessAndHarmfulReorderings := by
  refine ⟨exec_ac_artx_comm, fun u hu v hv s => ?_, fun uv huv => ⟨orderState, rfl, ?_⟩⟩
  · obtain ⟨f, hf⟩ := exec_sr_mc_eq hu
    obtain ⟨f1, f2, f3, hg⟩ := exec_tkp_lf2_lf3_eq hv
    simp only [hf, hg, andThen_next]
  · obtain rfl | rfl | rfl : uv = (.sc, .ac) ∨ uv = (.sc, .artx) ∨ uv = (.sr, .mc) := by
      simpa using huv
    all_goals exact andThen_exec_ne_of_is_ne rfl rfl (by decide)

end Sys2Proof.Machine
end

section
/-! PROOFS. The lane advance: the two feedback shifts of a cell, bit by bit, and the three
micro-operations that permute and shift the lanes (41_tweakey_schedule.md R121 to R125). -/

namespace Sys2Proof.Machine

/-! ## The feedback shifts of a cell -/

@[simp] theorem getElem_lf2Cell_zero (x : Cell) : (lf2Cell x)[0] = (x[7] ^^ x[5]) := by
  simp [lf2Cell]

theorem getElem_lf2Cell_succ (x : Cell) {k : Nat} (h : k < 7) : (lf2Cell x)[k + 1] = x[k] := by
  simp [lf2Cell]

@[simp] theorem getElem_lf3Cell_seven (x : Cell) : (lf3Cell x)[7] = (x[0] ^^ x[6]) := by
  simp [lf3Cell]

theorem getElem_lf3Cell_of_lt (x : Cell) {k : Nat} (h : k < 7) : (lf3Cell x)[k] = x[k + 1] := by
  rw [← BitVec.getLsbD_eq_getElem (i := k + 1)]
  simp [lf3Cell, h, Nat.add_comm 1 k]

@[simp] theorem lf2Cell_zero : lf2Cell 0#8 = 0#8 := rfl

@[simp] theorem lf3Cell_zero : lf3Cell 0#8 = 0#8 := rfl

theorem lf2Cell_eq_cellOfBits (x : Cell) :
    lf2Cell x = cellOfBits x[6] x[5] x[4] x[3] x[2] x[1] x[0] (x[7] ^^ x[5]) := by
  refine BitVec.eq_of_getElem_eq fun i hi => ?_
  rw [getElem_cellOfBits]
  match i with
  | 0 => exact getElem_lf2Cell_zero x
  | k + 1 =>
    rw [getElem_lf2Cell_succ x (by omega)]
    match k with
    | 0 | 1 | 2 | 3 | 4 | 5 | 6 => rfl

theorem lf3Cell_eq_cellOfBits (x : Cell) :
    lf3Cell x = cellOfBits (x[0] ^^ x[6]) x[7] x[6] x[5] x[4] x[3] x[2] x[1] := by
  refine BitVec.eq_of_getElem_eq fun i hi => ?_
  rw [getElem_cellOfBits]
  obtain rfl | h : i = 7 ∨ i < 7 := by omega
  · exact getElem_lf3Cell_seven x
  · rw [getElem_lf3Cell_of_lt x h]
    match i with
    | 0 | 1 | 2 | 3 | 4 | 5 | 6 => rfl

/-- A shift and an exclusive or of two bits work bit by bit, so `lf2` is linear (R124). -/
theorem lf2Cell_xor (a b : Cell) : lf2Cell (a ^^^ b) = lf2Cell a ^^^ lf2Cell b := by
  refine BitVec.eq_of_getElem_eq fun i hi => ?_
  rw [BitVec.getElem_xor]
  match i with
  | 0 => simp [Bool.xor_left_comm]
  | k + 1 => simp only [getElem_lf2Cell_succ _ (Nat.succ_lt_succ_iff.mp hi), BitVec.getElem_xor]

/-- Bit 7 comes back from bit 0, where `lf2` left it with bit 5, which is now bit 6 (R124). -/
theorem lf3Cell_lf2Cell (x : Cell) : lf3Cell (lf2Cell x) = x := by
  refine BitVec.eq_of_getElem_eq fun i hi => ?_
  obtain rfl | h : i = 7 ∨ i < 7 := by omega
  · have h6 : (lf2Cell x)[6] = x[5] := getElem_lf2Cell_succ x (by omega)
    simp [h6]
  · rw [getElem_lf3Cell_of_lt _ h, getElem_lf2Cell_succ x h]

/-- Bit 0 comes back from bit 7, where `lf3` left it with bit 6, which is now bit 5 (R124). -/
theorem lf2Cell_lf3Cell (x : Cell) : lf2Cell (lf3Cell x) = x := by
  refine BitVec.eq_of_getElem_eq fun i hi => ?_
  match i with
  | 0 =>
    have h5 : (lf3Cell x)[5] = x[6] := getElem_lf3Cell_of_lt x (by omega)
    simp [h5]
  | k + 1 =>
    have hk : k < 7 := by omega
    rw [getElem_lf2Cell_succ _ hk, getElem_lf3Cell_of_lt x hk]

/-- The inverse of a linear function is linear. -/
theorem lf3Cell_xor (a b : Cell) : lf3Cell (a ^^^ b) = lf3Cell a ^^^ lf3Cell b := by
  rw [← lf3Cell_lf2Cell (lf3Cell a ^^^ lf3Cell b), lf2Cell_xor, lf2Cell_lf3Cell, lf2Cell_lf3Cell]

/-- Settles O33: by the bits of the two shifts. -/
theorem feedbackCellFunctions : Obligations.FeedbackCellFunctions :=
  ⟨lf2Cell_eq_cellOfBits, lf3Cell_eq_cellOfBits, lf2Cell_xor, lf3Cell_xor, lf3Cell_lf2Cell,
    lf2Cell_lf3Cell, by decide, by decide⟩

/-! ## `LF2` and `LF3` -/

theorem onTop_getElem_of_top (f : Cell → Cell) (b : Block) {i : Fin 16} (h : i.val < 8) :
    (onTop f b)[i] = f b[i] := by
  simp [onTop_getElem, h]

/-- Settles O31: the top two rows of `TK2`, bit by bit. -/
theorem feedbackShift2Rule : Obligations.FeedbackShift2Rule := by
  refine ⟨issuedAtStep_of_seqCode rfl, fun s => ⟨_, exec_lf2 s, fun j hj => ?_, fun j hj => ?_⟩,
    rfl, by decide⟩
  · rw [onTop_getElem_of_top _ _ hj]
    refine ⟨getElem_lf2Cell_zero _, fun k hk => ?_⟩
    rw [BitVec.getLsbD_eq_getElem (by omega), getElem_lf2Cell_succ _ hk,
      BitVec.getLsbD_eq_getElem]
  · exact onTop_getElem_of_not_top _ _ (Nat.not_lt.mpr hj)

/-- Settles O32: the top two rows of `TK3`, bit by bit. -/
theorem feedbackShift3Rule : Obligations.FeedbackShift3Rule := by
  refine ⟨issuedAtStep_of_seqCode rfl, fun s => ⟨_, exec_lf3 s, fun j hj => ?_, fun j hj => ?_⟩,
    rfl, by decide⟩
  · rw [onTop_getElem_of_top _ _ hj]
    refine ⟨getElem_lf3Cell_seven _, fun k hk => ?_⟩
    rw [BitVec.getLsbD_eq_getElem (by omega), getElem_lf3Cell_of_lt _ hk,
      BitVec.getLsbD_eq_getElem]
  · exact onTop_getElem_of_not_top _ _ (Nat.not_lt.mpr hj)

/-! ## `TKP` -/

theorem permuteLane_getElem (l : Block) (i : Fin 16) : (permuteLane l)[i] = l[pt[i]] :=
  gather_getElem pt l i i.isLt

/-- The cells of a gather, in the order of its table. -/
theorem gather_toList (t : Vector (Fin 16) 16) (b : Block) :
    (gather t b).toList = t.toList.map fun j => b[j] := by
  refine List.ext_getElem (by simp) fun i h1 h2 => ?_
  simp

/-- A gather whose table is a permutation keeps the multiset of the cells. -/
theorem gather_toList_perm {t : Vector (Fin 16) 16} (h : t.toList.Perm (List.finRange 16))
    (b : Block) : (gather t b).toList.Perm b.toList := by
  have hb : b.toList = (List.finRange 16).map fun j => b[j] :=
    List.ext_getElem (by simp) fun i h1 h2 => by simp
  rw [gather_toList, hb]
  exact h.map _

theorem pt_toList_perm : pt.toList.Perm (List.finRange 16) := by decide

/-- Settles O30: `TKP` is a gather by `PT`, a permutation of the sixteen indices. -/
theorem lanePermutationRule : Obligations.LanePermutationRule := by
  refine ⟨issuedAtStep_of_seqCode rfl, fun s => ⟨_, _, _, exec_tkp s, fun i => ?_, ?_, ?_, ?_⟩,
    fun x => Vector.ext fun i hi => ?_, by decide⟩
  · exact ⟨permuteLane_getElem _ i, permuteLane_getElem _ i, permuteLane_getElem _ i⟩
  · exact gather_toList_perm pt_toList_perm s.tk1
  · exact gather_toList_perm pt_toList_perm s.tk2
  · exact gather_toList_perm pt_toList_perm s.tk3
  · exact (permuteLane_getElem _ ⟨i, hi⟩).trans (by simp)

/-! ## One advance -/

/-- `PT` exchanges the top two rows and the bottom two (R125). -/
theorem pt_top_iff : ∀ i : Fin 16, i.val < 8 ↔ 8 ≤ pt[i].val := by decide

/-- `TK1` is not shifted: its advance is that of the other lanes with the identity for `f`. -/
theorem onTop_id (b : Block) : onTop id b = b :=
  Vector.ext fun i hi => by simp [onTop_getElem]

/-- `TKADV` advances each lane: the permutation, then the lane's own shift on the top two rows. -/
theorem execPseudo_tkadv (s : State) : execPseudo .tkadv s = .next { s with
    tk1 := permuteLane s.tk1, tk2 := onTop lf2Cell (permuteLane s.tk2),
    tk3 := onTop lf3Cell (permuteLane s.tk3) } := by
  simp only [execPseudo, tkadvOps, execSeq, exec_tkp, exec_lf2, exec_lf3, andThen_next]

theorem onTop_permuteLane_getElem (f : Cell → Cell) (l : Block) (i : Fin 16) :
    (onTop f (permuteLane l))[i] = if i.val < 8 then f l[pt[i]] else l[pt[i]] := by
  rw [← permuteLane_getElem]
  exact onTop_getElem f _ i i.isLt

/-- An advanced lane, cell by cell: the entries of `PT` written out (R125). -/
theorem onTop_permuteLane_eq (f : Cell → Cell) (old : Block) : onTop f (permuteLane old) =
    #v[f old[9], f old[15], f old[8], f old[13], f old[10], f old[14], f old[12], f old[11],
      old[0], old[1], old[2], old[3], old[4], old[5], old[6], old[7]] := by
  refine Vector.ext fun i hi => (onTop_permuteLane_getElem f old ⟨i, hi⟩).trans ?_
  interval_cases i <;> rfl

/-- Settles O34: each lane advances with its own `f`. -/
theorem laneAdvanceTable : Obligations.LaneAdvanceTable := by
  refine ⟨pt_top_iff, fun s => ⟨_, _, _, execPseudo_tkadv s, fun x hx => ?_⟩⟩
  obtain rfl | rfl | rfl := by simpa only [List.mem_cons, List.not_mem_nil, or_false] using hx
  · exact (onTop_id _).symm.trans (onTop_permuteLane_eq id s.tk1)
  · exact onTop_permuteLane_eq lf2Cell s.tk2
  · exact onTop_permuteLane_eq lf3Cell s.tk3

end Sys2Proof.Machine
end

section
/-! PROOFS. A run, step by step: the steps of a round against the pseudo-operation `ROUND r`, the
rounds one after another, and the read-out (42_driver.md R145, R148, R149, R152, R153). -/

namespace Sys2Proof.Machine

/-! ## Sequences of micro-operations -/

theorem execSeq_append (us vs : List Instr) (s : State) :
    execSeq (us ++ vs) s = andThen (execSeq us s) (execSeq vs) := by
  induction us generalizing s with
  | nil => rfl
  | cons u us ih =>
    simp only [List.cons_append, execSeq]
    cases exec u s with
    | next t => exact ih t
    | fault e => cases e
    | refused r => rfl

theorem execSeq_singleton (u : Instr) (s : State) : execSeq [u] s = exec u s := by
  simp only [execSeq]
  cases exec u s <;> rfl

/-- A composition that answers a next state does so through a next state of its first part. -/
theorem andThen_eq_next_iff {x : Result} {f : State → Result} {t : State} :
    andThen x f = .next t ↔ ∃ s, x = .next s ∧ f s = .next t := by
  cases x <;> simp [andThen]

/-- A sequence of micro-operations leaves the position to the sequencer. -/
theorem execSeq_pos {us : List Instr} {s t : State} (h : execSeq us s = .next t) :
    t.pos = s.pos := by
  induction us generalizing s with
  | nil => cases h; rfl
  | cons u us ih =>
    obtain ⟨m, hm, ht⟩ := andThen_eq_next_iff.mp h
    exact (ih ht).trans (exec_frame hm).1

/-! ## The positions of a run -/

/-- The position `n` steps after `(RUN, 0, 0)`, up to the one that issues `FIN` (R148, R149). -/
def runPosition (n : Nat) : Position :=
  if n < 448 then ⟨.run, BitVec.ofNat 6 (n / 8), BitVec.ofNat 3 (n % 8)⟩ else ⟨.fin, 55, 7⟩

theorem runPosition_of_round (r : Fin 56) {k : Nat} (hk : k < 8) :
    runPosition (8 * r.val + k) = ⟨.run, BitVec.ofNat 6 r.val, BitVec.ofNat 3 k⟩ := by
  have hdiv : (8 * r.val + k) / 8 = r.val := by omega
  have hmod : (8 * r.val + k) % 8 = k := by omega
  rw [runPosition, if_pos (by omega), hdiv, hmod]

theorem runPosition_of_round_start (r : Fin 56) :
    runPosition (8 * r.val) = ⟨.run, BitVec.ofNat 6 r.val, 0⟩ :=
  runPosition_of_round r (k := 0) (by omega)

theorem nextInRound_runPosition {n : Nat} (h : n < 448) :
    nextInRound (runPosition n) = some (runPosition (n + 1)) := by
  obtain ⟨r, k, hr, hk, rfl⟩ : ∃ r k, r < 56 ∧ k < 8 ∧ n = 8 * r + k :=
    ⟨n / 8, n % 8, by omega, by omega, by omega⟩
  have hrnd : (BitVec.ofNat 6 r).toNat = r := Nat.mod_eq_of_lt (by omega)
  have hstp : (BitVec.ofNat 3 k).toNat = k := Nat.mod_eq_of_lt (by omega)
  rw [runPosition_of_round ⟨r, hr⟩ hk, nextInRound]
  simp only [hrnd, hstp]
  by_cases hk7 : k < 7
  · rw [if_pos hk7, Nat.add_assoc, runPosition_of_round ⟨r, hr⟩ (by omega), BitVec.ofNat_add]
    rfl
  obtain rfl : k = 7 := by omega
  by_cases hr55 : r < 55
  · rw [if_neg hk7, if_pos hr55, show 8 * r + 7 + 1 = 8 * (r + 1) by omega,
      runPosition_of_round_start ⟨r + 1, by omega⟩, BitVec.ofNat_add]
    rfl
  · obtain rfl : r = 55 := by omega
    rfl

/-! ## The steps of a round -/

/-- The levels of `rst` after some steps are those the host had scheduled. -/
theorem NoReset.after {s t : State} {a n m j : Nat} (h : NoReset s a n)
    (ht : runSteps m s = .next t) (ha : a ≤ m) (hj : m + j ≤ a + n) : NoReset t 0 j := by
  intro k _ hk
  rw [runSteps_host m ht]
  exact h _ (by omega) (by omega)

theorem NoReset.rst {s : State} {n : Nat} (h : NoReset s 0 (n + 1)) : s.inputs.rst = false :=
  h 0 (by omega) (by omega)

/-- `SEQ` is the list of the micro-operations of a round (R83). -/
theorem decode_seqCode_ofNat : ∀ n : Fin 8,
    decode (seqCode (BitVec.ofNat 3 n.val)) = .ok (roundOps[n.val]'n.isLt) := by decide

/-- Step `n` of round `r` does to the datapath what its micro-operation does in any state `m` with the
same datapath and round. -/
theorem step_roundOps {s m m' : State} {r : Fin 56} {n : Nat} (hn : n < 8)
    (hpos : s.pos = runPosition (8 * r.val + n)) (hr : s.inputs.rst = false)
    (hd : datapath m = datapath s) (hrnd : m.pos.rnd = BitVec.ofNat 6 r.val)
    (he : exec (roundOps[n]'hn) m = .next m') :
    ∃ t, step s = .next t ∧ t.pos = runPosition (8 * r.val + n + 1) ∧
      datapath t = datapath m' ∧ t.ct = s.ct := by
  have hround := hpos.trans (runPosition_of_round r hn)
  have hu : decode (seqCode s.pos.stp) = .ok (roundOps[n]'hn) := by
    rw [hround]
    exact decode_seqCode_ofNat ⟨n, hn⟩
  have hq : nextInRound s.pos = some (runPosition (8 * r.val + n + 1)) := by
    rw [hpos]
    exact nextInRound_runPosition (by omega)
  obtain ⟨t, ht, hdt⟩ := exec_seq_congr hu hd (by rw [hrnd, hround]) he
  have hct : t.ct = s.ct := exec_seq_ct hu ht
  exact ⟨_, (StepTo.round hr (by rw [hround]) hu ht hq).step_eq, drive_pos _,
    (datapath_drive _).trans hdt.symm, (drive_ct _).trans hct⟩

/-- After `n` steps of a round the datapath is that after its first `n` micro-operations. -/
theorem runSteps_of_execSeq_take {s m : State} {r : Fin 56} {n : Nat} (hn : n ≤ 8)
    (hpos : s.pos = ⟨.run, BitVec.ofNat 6 r.val, 0⟩) (hr : NoReset s 0 n)
    (h : execSeq (roundOps.take n) s = .next m) :
    ∃ t, runSteps n s = .next t ∧ t.pos = runPosition (8 * r.val + n) ∧
      datapath t = datapath m ∧ t.ct = s.ct := by
  induction n generalizing m with
  | zero => cases h; exact ⟨s, rfl, hpos.trans (runPosition_of_round_start r).symm, rfl, rfl⟩
  | succ n ih =>
    have hn8 : n < roundOps.length := hn
    rw [List.take_succ_eq_append_getElem hn8, execSeq_append] at h
    obtain ⟨m₀, hm₀, hm⟩ := andThen_eq_next_iff.mp h
    rw [execSeq_singleton] at hm
    obtain ⟨t, ht, htpos, hd, hct⟩ := ih (by omega) (fun k hk hlt => hr k hk (by omega)) hm₀
    have hrst : NoReset t 0 1 := hr.after ht (by omega) (by omega)
    have hrnd : m₀.pos.rnd = BitVec.ofNat 6 r.val := by rw [execSeq_pos hm₀, hpos]
    obtain ⟨t', ht', htpos', hd', hct'⟩ := step_roundOps hn htpos hrst.rst hd.symm hrnd hm
    exact ⟨t', runSteps_trans rfl ht (runSteps_succ_of_next 0 ht'), htpos', hd', hct'.trans hct⟩

/-- The eight steps of a round compute the round function (R145). -/
theorem runSteps_eight {s : State} {r : Fin 56} (hpos : s.pos = ⟨.run, BitVec.ofNat 6 r.val, 0⟩)
    (hr : NoReset s 0 8) :
    ∃ t, runSteps 8 s = .next t ∧ t.pos = runPosition (8 * r.val + 8) ∧
      datapath t = roundFunction r (datapath s) ∧ t.ct = s.ct := by
  obtain ⟨m, hm, hd, -⟩ := execRound_ofNat r s
  have hrnd : s.pos.rnd = BitVec.ofNat 6 r.val := by rw [hpos]
  rw [← hrnd] at hm
  obtain ⟨t, ht, htpos, hdt, hct⟩ := runSteps_of_execSeq_take (Nat.le_refl 8) hpos hr hm
  exact ⟨t, ht, htpos, hdt.trans hd, hct⟩

/-! ## The rounds -/

/-- `8 * n` steps of a run compute the first `n` rounds (R152). -/
theorem runSteps_rounds {s : State} (n : Nat) (h : n ≤ 56) (hpos : s.pos = runPosition 0)
    (hr : NoReset s 0 (8 * n)) :
    ∃ t, runSteps (8 * n) s = .next t ∧ t.pos = runPosition (8 * n) ∧
      datapath t = rounds n h (datapath s) ∧ t.ct = s.ct := by
  induction n with
  | zero => exact ⟨s, rfl, hpos, rfl, rfl⟩
  | succ n ih =>
    obtain ⟨t, ht, htpos, hd, hct⟩ := ih (by omega) fun k hk hlt => hr k hk (by omega)
    obtain ⟨t', ht', htpos', hd', hct'⟩ :=
      runSteps_eight (htpos.trans (runPosition_of_round_start ⟨n, h⟩))
        (hr.after ht (by omega) (by omega))
    exact ⟨t', runSteps_trans rfl ht ht', htpos', by rw [hd', hd, rounds_succ], hct'.trans hct⟩

/-! ## A run from its start -/

/-- The first step of a run loads the datapath (R143). -/
theorem StartsRun.load {s : State} {p : Block} {k : TweakeyBlock} (h : StartsRun s p k) :
    ∃ t, runSteps 1 s = .next t ∧ t.pos = runPosition 0 ∧ datapath t = loaded p k := by
  refine ⟨_, runSteps_succ_of_next 0 (StepTo.load h.rst h.waits h.start).step_eq, drive_pos _, ?_⟩
  rw [datapath_drive, ← h.ptIn, ← h.tkIn]
  rfl

/-- After `LOAD` and `8 * n` more steps of a run, `n` rounds are done (R152). -/
theorem StartsRun.after_rounds {s : State} {p : Block} {k : TweakeyBlock} (h : StartsRun s p k)
    (n : Nat) (hn : n ≤ 56) : ∃ t, runSteps (1 + 8 * n) s = .next t ∧ t.pos = runPosition (8 * n) ∧
      datapath t = rounds n hn (loaded p k) := by
  obtain ⟨t, ht, hpos, hd⟩ := h.load
  obtain ⟨t', ht', hpos', hd', -⟩ :=
    runSteps_rounds n hn hpos (h.noReset.after ht (by omega) (by omega))
  exact ⟨t', runSteps_trans rfl ht ht', hpos', by rw [hd', hd]⟩

/-- The 450 steps of a run end with the read-out of the 56 rounds (R146, R153). -/
theorem StartsRun.completes {s : State} {p : Block} {k : TweakeyBlock} (h : StartsRun s p k) :
    ∃ t, runSteps 450 s = .next t ∧ t.pos = ⟨.done, 55, 7⟩ ∧
      datapath t = rounds 56 (Nat.le_refl 56) (loaded p k) ∧ t.ct = encrypt p k := by
  obtain ⟨t, ht, hpos, hd⟩ := h.after_rounds 56 (Nat.le_refl 56)
  have hfin : t.pos = ⟨.fin, 55, 7⟩ := hpos
  have hrst : NoReset t 0 1 := h.noReset.after ht (by omega) (by omega)
  have hstep := (StepTo.fin hrst.rst (by rw [hfin])).step_eq
  refine ⟨_, runSteps_trans rfl ht (runSteps_succ_of_next 0 hstep), ?_, ?_, ?_⟩
  · rw [drive_pos, hfin]
  · rw [datapath_drive]
    exact hd
  · rw [drive_ct, encrypt_eq, ← hd]
    rfl

end Sys2Proof.Machine
end

section
/-! PROOFS. The lanes in the rounds of a run and after it (41_tweakey_schedule.md R126, R128). -/

namespace Sys2Proof.Machine

/-! ## The lanes in a round -/

/-- After `n` rounds the lanes are the loaded slices advanced `n` times. -/
theorem lanes_of_datapath_eq_rounds {t : State} {n : Nat} {hn : n ≤ 56} {p : Block}
    {k : TweakeyBlock} (hd : datapath t = rounds n hn (loaded p k)) :
    t.tk1 = iterate permuteLane n (laneSlice 0 k) ∧
    t.tk2 = iterate (fun l => onTop lf2Cell (permuteLane l)) n (laneSlice 1 k) ∧
    t.tk3 = iterate (fun l => onTop lf3Cell (permuteLane l)) n (laneSlice 2 k) := by
  have h := rounds_lanes n hn (loaded p k)
  rwa [← hd] at h

/-- `SC` and `AC` leave the lanes as they are. -/
theorem execSeq_sc_ac_lanes {s : State} (h : s.pos.rnd.toNat < 56) :
    ∃ m, execSeq [.sc, .ac] s = .next m ∧ m.tk1 = s.tk1 ∧ m.tk2 = s.tk2 ∧ m.tk3 = s.tk3 := by
  have hac := exec_ac_of_lt (s := { s with is := subCells s.is }) h
  simp only [execSeq, exec_sc, andThen_next, hac]
  exact ⟨_, rfl, rfl, rfl, rfl⟩

/-- Settles O35: `8 r` steps are `r` rounds, and the two steps up to `ARTX` leave the lanes alone. -/
theorem lanesInRoundAreAdvances : Obligations.LanesInRoundAreAdvances := by
  intro s p k h r
  obtain ⟨t, ht, hpos, hd⟩ := h.after_rounds r.val (by omega)
  have hpos' := hpos.trans (runPosition_of_round_start r)
  have hrnd : t.pos.rnd.toNat < 56 := by
    rw [hpos']
    exact (Nat.mod_le _ _).trans_lt r.isLt
  obtain ⟨m, hm, hm1, hm2, hm3⟩ := execSeq_sc_ac_lanes hrnd
  obtain ⟨t', ht', hpos'', hd', -⟩ := runSteps_of_execSeq_take (n := 2) (by omega) hpos'
    (h.noReset.after ht (by omega) (by omega)) hm
  obtain ⟨h1, h2, h3⟩ := lanes_of_datapath_eq_rounds hd
  refine ⟨t', runSteps_trans rfl ht ht', hpos''.trans (runPosition_of_round r (by omega)),
    ?_, ?_, ?_⟩
  · exact (congrArg Datapath.tk1 hd').trans (hm1.trans h1)
  · exact (congrArg Datapath.tk2 hd').trans (hm2.trans h2)
  · exact (congrArg Datapath.tk3 hd').trans (hm3.trans h3)

/-! ## Repeated feedback shifts -/

theorem iterate_eq_nat_iterate {α : Type} (f : α → α) (n : Nat) (x : α) :
    iterate f n x = f^[n] x := by
  induction n with
  | zero => rfl
  | succ n ih => rw [iterate_succ, ih, Function.iterate_succ_apply']

theorem iterate_lf2Cell_xor (n : Nat) (a b : Cell) :
    iterate lf2Cell n (a ^^^ b) = iterate lf2Cell n a ^^^ iterate lf2Cell n b := by
  induction n with
  | zero => rfl
  | succ n ih => simp only [iterate_succ, ih, lf2Cell_xor]

/-- The feedback taps of `lf2`: eight shifts are two shifts and the cell itself, exclusive or. -/
theorem iterate_lf2Cell_eight (x : Cell) : iterate lf2Cell 8 x = iterate lf2Cell 2 x ^^^ x := by
  revert x
  decide +kernel

/-- The relation of the taps, for twice as many shifts: linearity cancels the middle term. -/
theorem iterate_lf2Cell_double {a b : Nat}
    (h : ∀ x, iterate lf2Cell a x = iterate lf2Cell b x ^^^ x) (x : Cell) :
    iterate lf2Cell (a + a) x = iterate lf2Cell (b + b) x ^^^ x := by
  rw [iterate_add, h x, iterate_lf2Cell_xor, h x, h, iterate_add]
  simp [BitVec.xor_assoc]

theorem lf3Cell_leftInverse : Function.LeftInverse lf3Cell lf2Cell := lf3Cell_lf2Cell

/-- Thirty shifts are the identity: 32 are two, by the relation of the taps doubled twice. -/
theorem iterate_lf2Cell_thirty (x : Cell) : iterate lf2Cell 30 x = x := by
  have h16 := iterate_lf2Cell_double iterate_lf2Cell_eight
  have h32 : iterate lf2Cell 32 x = iterate lf2Cell 2 x := by
    rw [iterate_lf2Cell_double h16 x, iterate_lf2Cell_eight x, BitVec.xor_assoc, BitVec.xor_self,
      BitVec.xor_zero]
  rw [iterate_add lf2Cell 2 30] at h32
  exact lf3Cell_leftInverse.injective (lf3Cell_leftInverse.injective h32)

theorem iterate_lf3Cell_thirty (x : Cell) : iterate lf3Cell 30 x = x := by
  conv_lhs => rw [← iterate_lf2Cell_thirty x]
  simp only [iterate_eq_nat_iterate]
  exact lf3Cell_leftInverse.iterate 30 x

/-- Two shifts short of the identity are two shifts the other way (R128). -/
theorem iterate_twentyEight_of_thirty {f g : Cell → Cell} (hgf : Function.LeftInverse g f)
    (h : ∀ x, iterate f 30 x = x) (x : Cell) : iterate f 28 x = g (g x) := by
  conv_rhs => rw [← h x, iterate_add f 2 28]
  exact (hgf.iterate 2 _).symm

theorem iterate_lf2Cell_twentyEight (x : Cell) : iterate lf2Cell 28 x = lf3Cell (lf3Cell x) :=
  iterate_twentyEight_of_thirty lf3Cell_lf2Cell iterate_lf2Cell_thirty x

theorem iterate_lf3Cell_twentyEight (x : Cell) : iterate lf3Cell 28 x = lf2Cell (lf2Cell x) :=
  iterate_twentyEight_of_thirty lf2Cell_lf3Cell iterate_lf3Cell_thirty x

/-! ## The lanes after 56 advances -/

/-- What comes back after 16 times is after 56 times where it is after 8. -/
theorem iterate_fiftySix_of_sixteen {α : Type} {f : α → α} {x : α} (h : iterate f 16 x = x) :
    iterate f 56 x = iterate f 8 x := by
  have hper : Function.IsPeriodicPt f 16 x := (iterate_eq_nat_iterate f 16 x).symm.trans h
  simp only [iterate_eq_nat_iterate]
  exact (hper.iterate_mod_apply 56).symm

theorem iterate_permuteLane_fiftySix (l : Block) :
    iterate permuteLane 56 l = iterate permuteLane 8 l :=
  iterate_fiftySix_of_sixteen (iterate_permuteLane_sixteen l)

/-- Two advances shift every cell once: `PT` takes it to the other half in between (R125). -/
theorem advance_twice_getElem (f : Cell → Cell) (l : Block) (i : Fin 16) :
    (onTop f (permuteLane (onTop f (permuteLane l))))[i] = f l[pt[pt[i]]] := by
  have hi := pt_top_iff i
  rw [onTop_permuteLane_getElem, onTop_permuteLane_getElem]
  by_cases h : i.val < 8
  · rw [if_pos h, if_neg (by omega)]
  · rw [if_neg h, if_pos (by omega)]

/-- After `2 * n` advances every cell has been shifted `n` times, on its way along `PT`. -/
theorem iterate_advance_getElem {n : Nat} {i j : Fin 16} (h : iterate pt.get (2 * n) i = j)
    (f : Cell → Cell) (l : Block) :
    (iterate (fun l => onTop f (permuteLane l)) (2 * n) l)[i] = iterate f n l[j] := by
  induction n generalizing i with
  | zero => obtain rfl : i = j := h; rfl
  | succ n ih =>
    rw [Nat.mul_succ, iterate_add _ (2 * n) 2] at h
    exact (advance_twice_getElem f _ i).trans (congrArg f (ih h))

/-- `Q`, where the cells of a lane come from after 56 advances (R128). -/
def laneSource : Vector (Fin 16) 16 := #v[5, 6, 3, 2, 7, 0, 1, 4, 13, 14, 11, 10, 15, 8, 9, 12]

theorem pt_iterate_eight : ∀ i : Fin 16, iterate pt.get 8 i = laneSource[i] := by decide

theorem pt_iterate_fiftySix (i : Fin 16) : iterate pt.get 56 i = laneSource[i] :=
  (iterate_fiftySix_of_sixteen (pt_iterate_sixteen i)).trans (pt_iterate_eight i)

/-- The lanes after the 450 steps of a run. -/
theorem StartsRun.lanes {s t : State} {p : Block} {k : TweakeyBlock} (h : StartsRun s p k)
    (ht : runSteps 450 s = .next t) :
    t.tk1 = iterate permuteLane 56 (laneSlice 0 k) ∧
    t.tk2 = iterate (fun l => onTop lf2Cell (permuteLane l)) 56 (laneSlice 1 k) ∧
    t.tk3 = iterate (fun l => onTop lf3Cell (permuteLane l)) 56 (laneSlice 2 k) := by
  obtain ⟨t', ht', -, hd, -⟩ := h.completes
  obtain rfl : t' = t := Host.Outcome.next.inj (ht'.symm.trans ht)
  exact lanes_of_datapath_eq_rounds hd

/-- The cells of the lanes after the 450 steps of a run (R128). -/
theorem StartsRun.lane_cells {s t : State} {p : Block} {k : TweakeyBlock} (h : StartsRun s p k)
    (ht : runSteps 450 s = .next t) (i : Fin 16) :
    t.tk1[i] = k[laneSource[i].val] ∧
    t.tk2[i] = iterate lf2Cell 28 k[16 + laneSource[i].val] ∧
    t.tk3[i] = iterate lf3Cell 28 k[32 + laneSource[i].val] := by
  obtain ⟨h1, h2, h3⟩ := h.lanes ht
  have hq := pt_iterate_fiftySix i
  refine ⟨?_, ?_, ?_⟩
  · rw [h1]
    exact (iterate_gather_getElem hq _).trans (by simp)
  · rw [h2]
    exact (iterate_advance_getElem (n := 28) hq lf2Cell _).trans (by simp)
  · rw [h3]
    exact (iterate_advance_getElem (n := 28) hq lf3Cell _).trans (by simp)

/-- A tweakey whose first lane is the marked one. -/
def markedTweakey : TweakeyBlock := Vector.ofFn fun i => if i = 0 then 1 else 0

theorem laneSlice_markedTweakey : laneSlice 0 markedTweakey = markedLane := by decide

/-- Settles O36: cell by cell, along `PT`, with the 28 shifts as two the other way. -/
theorem lanesAfterRun : Obligations.LanesAfterRun := by
  refine ⟨fun s p k h => ?_, fun s t p h ht => ?_, ⟨markedTweakey, fun s t p h ht => ?_⟩,
    iterate_permuteLane_fiftySix, fun x => ⟨iterate_lf2Cell_thirty x, iterate_lf3Cell_thirty x⟩,
    fun x => ⟨iterate_lf2Cell_twentyEight x, iterate_lf3Cell_twentyEight x⟩⟩
  · obtain ⟨t, ht, -⟩ := h.completes
    exact ⟨t, ht, h.lane_cells ht⟩
  · refine ⟨Vector.ext fun i hi => ?_, Vector.ext fun i hi => ?_, Vector.ext fun i hi => ?_⟩
    all_goals obtain ⟨h1, h2, h3⟩ := h.lane_cells ht ⟨i, hi⟩
    · simpa using h1
    · simpa [iterate_lf2Cell_twentyEight] using h2
    · simpa [iterate_lf3Cell_twentyEight] using h3
  · obtain ⟨h1, -, -⟩ := h.lanes ht
    rw [h1, laneSlice_markedTweakey, iterate_permuteLane_fiftySix]
    exact iterate_permuteLane_markedLane_ne (by decide) (by decide)

end Sys2Proof.Machine
end

section
/-! PROOFS. One step: what it refuses, and the successor of every position a run reaches (42_driver.md
R141, R147 to R151). -/

namespace Sys2Proof.Machine

/-! ## What a step refuses -/

/-- A refused micro-operation is the step's refusal. -/
theorem runOp_refused {u : Instr} {s : State} {r : Refusal} (h : exec u s = .refused r) :
    runOp u s = .refused r := by simp [runOp, h]

/-- A micro-operation that completes at a position without a successor. -/
theorem runOp_noSuccessor {u : Instr} {s t : State} (he : exec u s = .next t)
    (hp : nextPosition u s.pos = none) : runOp u s = .refused (.noSuccessor s.pos) := by
  simp [runOp, he, hp]

/-- Settles O5: the two branches of a step, and the two answers of `exec` without a fault. -/
theorem stepRunsDecodedInstruction : Obligations.StepRunsDecodedInstruction := by
  refine ⟨fun s => step_reset, fun s t u p hr hu he hp => ?_, fun s u r hr hu he => ?_⟩
  · rw [step_run hr hu, runOp_next he hp]
  · rw [step_run hr hu, runOp_refused he]

/-- The end of a round that does not exist has no successor (R149). -/
theorem nextInRound_of_ge {p : Position} (hk : p.stp = 7) (hr : 56 ≤ p.rnd.toNat) :
    nextInRound p = none := by
  simp [nextInRound, hk, show ¬ p.rnd.toNat < 55 by omega, show p.rnd.toNat ≠ 55 by omega]

/-- Every other position of the rounds has one. -/
theorem nextInRound_some_or (p : Position) :
    (∃ q, nextInRound p = some q) ∨ (p.stp = 7 ∧ 56 ≤ p.rnd.toNat) := by
  unfold nextInRound
  split_ifs with hin hlast h55
  · exact .inl ⟨_, rfl⟩
  · exact .inl ⟨_, rfl⟩
  · exact .inl ⟨_, rfl⟩
  · exact .inr ⟨by bv_omega, by omega⟩

/-- `AC` is issued at step 1 of the rounds and nowhere else (R83). -/
theorem issuedAtStep_ac : IssuedAtStep .ac 0x3 1 := issuedAtStep_of_seqCode rfl

/-- A step in `RUN` completes, but for `AC` and for the move at the end of a round, where the round
does not exist. -/
theorem step_of_run {s : State} (hr : s.inputs.rst = false) (hp : s.pos.phase = .run) :
    (∃ t, step s = .next t) ∨ (56 ≤ s.pos.rnd.toNat ∧ (s.pos.stp = 1 ∨ s.pos.stp = 7)) := by
  obtain ⟨u, hu⟩ := decode_seqCode s.pos.stp
  obtain ⟨t, he⟩ | ⟨rfl, hge⟩ := exec_next_or u s
  · obtain ⟨q, hq⟩ | ⟨hk, hge⟩ := nextInRound_some_or s.pos
    · exact .inl ⟨_, (StepTo.round hr hp hu he hq).step_eq⟩
    · exact .inr ⟨hge, .inr hk⟩
  · rw [← issuedCode_of_run hp s.inputs.start] at hu
    exact .inr ⟨hge, .inl ((issuedAtStep_ac.2 _ _).mp hu).2⟩

/-- Settles O12: `MC` completes and has no successor there; outside `RUN` every kind of step
completes. -/
theorem stepRefusesOnlyBeyondRound55 : Obligations.StepRefusesOnlyBeyondRound55 := by
  refine ⟨fun s hr hp hk hge => ?_, fun s => ?_⟩
  · have hu : decode (issuedCode s.pos s.inputs.start) = .ok .mc := by
      rw [issuedCode_of_run hp, hk]
      rfl
    rw [step_run hr hu]
    exact runOp_noSuccessor (exec_mc s) (nextInRound_of_ge hk hge)
  · cases hr : s.inputs.rst with
    | true => exact .inl ⟨_, step_reset hr⟩
    | false =>
      cases hp : s.pos.phase with
      | run => exact (step_of_run hr hp).imp_right fun h => ⟨rfl, rfl, h⟩
      | fin => exact .inl ⟨_, (StepTo.fin hr hp).step_eq⟩
      | idle | done =>
        have hw : waiting s.pos.phase = true := by rw [hp]; rfl
        cases hs : s.inputs.start with
        | true => exact .inl ⟨_, (StepTo.load hr hw hs).step_eq⟩
        | false => exact .inl ⟨_, (StepTo.wait hr hw hs).step_eq⟩

/-! ## Where a step leads -/

theorem nextInRound_inside {r : BitVec 6} {k : BitVec 3} (hk : k.toNat < 7) :
    nextInRound ⟨.run, r, k⟩ = some ⟨.run, r, k + 1⟩ := by simp [nextInRound, hk]

theorem nextInRound_end {r : BitVec 6} (hr : r.toNat < 55) :
    nextInRound ⟨.run, r, 7⟩ = some ⟨.run, r + 1, 0⟩ := by simp [nextInRound, hr]

/-- A step of a round that exists moves by the rule of the round (R148, R149). -/
theorem step_pos_of_run {s : State} {r : BitVec 6} {k : BitVec 3} {q : Position}
    (hr : s.inputs.rst = false) (hpos : s.pos = ⟨.run, r, k⟩) (hrnd : r.toNat < 56)
    (hq : nextInRound ⟨.run, r, k⟩ = some q) : ∃ t, step s = .next t ∧ t.pos = q := by
  obtain ⟨u, hu⟩ := decode_issuedCode s.pos s.inputs.start
  have hl : s.pos.legal = true := by rw [hpos]; exact decide_eq_true hrnd
  refine step_pos_of_legal hl hr hu ?_
  rw [nextPosition_of_run (by rw [hpos]) hu, hpos, hq]

/-- A step with `start = 0` in a waiting phase stays where it is (R151). -/
theorem step_pos_of_wait {s : State} {p : Position} (hr : s.inputs.rst = false) (hpos : s.pos = p)
    (hw : waiting p.phase = true) (hs : s.inputs.start = false) :
    ∃ t, step s = .next t ∧ t.pos = p :=
  ⟨_, (StepTo.wait hr (hpos ▸ hw) hs).step_eq, by rw [drive_pos, hpos]⟩

/-- A step with `start = 1` in a waiting phase leads to the first round (R147). -/
theorem step_pos_of_load {s : State} {p : Position} (hr : s.inputs.rst = false) (hpos : s.pos = p)
    (hw : waiting p.phase = true) (hs : s.inputs.start = true) :
    ∃ t, step s = .next t ∧ t.pos = ⟨.run, 0, 0⟩ :=
  ⟨_, (StepTo.load hr (hpos ▸ hw) hs).step_eq, drive_pos _⟩

/-- Settles O6: row by row, by the kind of step. -/
theorem successorTable : Obligations.SuccessorTable := by
  refine ⟨fun s hr => ⟨_, step_reset hr, drive_pos _⟩, fun s hr =>
    ⟨fun hpos => ?_, fun hpos => ?_, fun r k hpos hrnd hk => ?_, fun r hpos hrnd => ?_,
      fun hpos => ?_, fun hpos => ?_, fun hpos => ?_, fun hpos => ?_⟩⟩
  · exact step_pos_of_wait hr hpos rfl
  · exact step_pos_of_load hr hpos rfl
  · exact step_pos_of_run hr hpos (Nat.lt_succ_of_le hrnd) (nextInRound_inside hk)
  · exact step_pos_of_run hr hpos (Nat.lt_succ_of_lt hrnd) (nextInRound_end hrnd)
  · exact step_pos_of_run hr hpos (by decide) rfl
  · exact ⟨_, (StepTo.fin hr (by rw [hpos])).step_eq, by rw [drive_pos, hpos]⟩
  · exact step_pos_of_wait hr hpos rfl
  · exact step_pos_of_load hr hpos rfl

end Sys2Proof.Machine
end

section
/-! PROOFS. The driver's own micro-operations, IDLE, LOAD and FIN (42_driver.md R142, R143, R146). -/

namespace Sys2Proof.Machine

/-! ## Where they are issued -/

/-- A waiting phase issues `LOAD` or `IDLE`, by `start`, and no other phase issues either (R84). -/
theorem load_or_idle_issued_iff {p : Position} {start : Bool} {u : Instr}
    (hu : u = .load ∨ u = .idle) : decode (issuedCode p start) = .ok u ↔
      waiting p.phase = true ∧ (if start then Instr.load else .idle) = u := by
  cases hp : p.phase with
  | idle | done => simp [decode_issuedCode_of_waiting, hp, waiting]
  | run =>
    obtain ⟨hidle, hload, -⟩ := decode_seqCode_ne_driver p.stp
    rw [issuedCode_of_run hp]
    obtain rfl | rfl := hu
    · simp [hload, waiting]
    · simp [hidle, waiting]
  | fin =>
    rw [decode_issuedCode_of_fin hp]
    obtain rfl | rfl := hu <;> simp [waiting]

theorem idle_issued_iff (p : Position) (start : Bool) :
    decode (issuedCode p start) = .ok .idle ↔ waiting p.phase = true ∧ start = false := by
  rw [load_or_idle_issued_iff (.inr rfl)]
  cases start <;> simp

theorem load_issued_iff (p : Position) (start : Bool) :
    decode (issuedCode p start) = .ok .load ↔ waiting p.phase = true ∧ start = true := by
  rw [load_or_idle_issued_iff (.inl rfl)]
  cases start <;> simp

theorem fin_issued_iff (p : Position) (start : Bool) :
    decode (issuedCode p start) = .ok .fin ↔ p.phase = .fin := by
  cases hp : p.phase with
  | idle | done =>
    rw [decode_issuedCode_of_waiting (by rw [hp]; rfl)]
    cases start <;> simp
  | run => simp [issuedCode_of_run hp, (decode_seqCode_ne_driver p.stp).2.2]
  | fin => simp [decode_issuedCode_of_fin hp]

/-! ## IDLE -/

/-- The rounds never stay at a place of `SEQ` (R148, R149). -/
theorem nextInRound_stp_ne {p q : Position} (h : nextInRound p = some q) (hq : q.phase = .run) :
    q.stp ≠ p.stp := by
  unfold nextInRound at h
  split_ifs at h with hin
  · cases h
    bv_omega
  · cases h
    bv_omega
  · cases h
    cases hq

/-- Of two positions in a row the second issues another micro-operation, `IDLE` excepted (R142). -/
theorem issued_ne_of_nextPosition {p q : Position} {u : Instr} {start start' : Bool}
    (hu : decode (issuedCode p start) = .ok u) (hne : u ≠ .idle)
    (hq : nextPosition u p = some q) : decode (issuedCode q start') ≠ .ok u := by
  cases hp : p.phase with
  | idle | done =>
    rw [decode_issuedCode_of_waiting (by rw [hp]; rfl)] at hu
    cases start with
    | true => cases hu; cases hq; simp [load_issued_iff, waiting]
    | false => cases hu; exact absurd rfl hne
  | run =>
    rw [nextPosition_of_run hp hu] at hq
    rw [issuedCode_of_run hp] at hu
    have hseq := issuedAtStep_of_seqCode (encode_of_decode hu).symm
    rw [Ne, hseq.2]
    exact fun ⟨hrun, hstp⟩ => nextInRound_stp_ne hq hrun hstp
  | fin =>
    rw [decode_issuedCode_of_fin hp] at hu
    cases hu
    cases hq
    simp [fin_issued_iff]

theorem SameRegisters.refl (s : State) : SameRegisters s s := ⟨rfl, rfl, rfl⟩

/-- The output ports are functions of the registers (R26). -/
theorem SameRegisters.outputs_eq {s t : State} (h : SameRegisters s t) :
    busy s = busy t ∧ done s = done t ∧ ctOut s = ctOut t := by
  obtain ⟨-, hct, hpos⟩ := h
  have hphase : s.pos.phase = t.pos.phase := congrArg _ hpos
  have hdone := done_congr hphase
  exact ⟨busy_congr hphase, hdone, by simp only [ctOut, hdone, hct]⟩

/-- A waiting engine keeps its registers for as long as `rst` and `start` stay 0 (R142, R151). -/
theorem runSteps_wait {s : State} (n : Nat) (hw : waiting s.pos.phase = true)
    (h : ∀ k, k < n → (inputsAfter k s).rst = false ∧ (inputsAfter k s).start = false) :
    ∃ t, runSteps n s = .next t ∧ SameRegisters t s := by
  induction n with
  | zero => exact ⟨s, rfl, .refl s⟩
  | succ n ih =>
    obtain ⟨t, ht, hd, hct, hpos⟩ := ih fun k hk => h k (by omega)
    have hin : t.inputs = inputsAfter n s := runSteps_host n ht 0
    obtain ⟨hr, hs⟩ := h n (by omega)
    rw [← hin] at hr hs
    have hstep := (StepTo.wait hr (hpos ▸ hw) hs).step_eq
    refine ⟨_, runSteps_trans rfl ht (runSteps_succ_of_next 0 hstep), ?_⟩
    simpa [SameRegisters] using ⟨hd, hct, hpos⟩

/-- Settles O37: the phases that issue `IDLE`, the moves of the position, and the wait by induction. -/
theorem idleRule : Obligations.IdleRule := by
  refine ⟨rfl, idle_issued_iff, exec_idle, fun s t u start hr hu hne h => ?_, fun s n hw h => ?_⟩
  · obtain ⟨hr', -⟩ | ⟨-, u', m, q, hu', -, hq, rfl⟩ := step_inv h
    · rw [hr] at hr'; cases hr'
    · obtain rfl : u = u' := Except.ok.inj (hu.symm.trans hu')
      rw [drive_pos]
      exact issued_ne_of_nextPosition hu hne hq
  · obtain ⟨t, ht, hsame⟩ := runSteps_wait n hw h
    exact ⟨t, ht, hsame, hsame.outputs_eq⟩

/-! ## LOAD -/

/-- Settles O38: the three lanes are the three slices of `tk_in`, and a waiting engine issues `LOAD`
when `start = 1`. -/
theorem loadRule : Obligations.LoadRule := by
  refine ⟨rfl, load_issued_iff, fun s => ⟨_, _, _, _, exec_load s, fun i => ?_⟩, fun s hw hr hs =>
    ⟨_, (StepTo.load hr hw hs).step_eq, ?_, drive_ct _, drive_pos _, ?_, ?_⟩⟩
  · simp
  · rw [datapath_drive]; rfl
  · rw [busy_drive]; rfl
  · rw [done_drive]; rfl

/-! ## FIN -/

/-- Settles O39: `FIN` is issued by `PHASE` alone, and `DONE` shows the `CT` it wrote. -/
theorem finRule : Obligations.FinRule := by
  refine ⟨rfl, fin_issued_iff, fun s => ⟨s.is, exec_fin s, fun _ => rfl⟩, fun s hp hr =>
    ⟨_, (StepTo.fin hr hp).step_eq, drive_ct _, ?_, ?_, ?_, ?_, ?_⟩⟩
  · rw [datapath_drive]; rfl
  · rw [drive_pos]
  · rw [busy_drive]; rfl
  · rw [done_drive]; rfl
  · rw [ctOut_drive]; exact ctOut_of_done rfl

end Sys2Proof.Machine
end

section
/-! PROOFS. A round and a run of the machine, step by step (42_driver.md R145, R149, R153). -/

namespace Sys2Proof.Machine

/-- The position after round `r`: the next round, or after round 55 the read-out (R149). -/
theorem runPosition_of_round_end (r : Fin 56) : runPosition (8 * r.val + 8) =
    if r.val < 55 then ⟨.run, BitVec.ofNat 6 (r.val + 1), 0⟩ else ⟨.fin, 55, 7⟩ := by
  split_ifs with hr
  · exact runPosition_of_round_start ⟨r.val + 1, by omega⟩
  · rw [runPosition, if_neg (by omega)]

/-- Settles O40: eight steps against the pseudo-operation `ROUND r`. -/
theorem eightStepsAreOneRound : Obligations.EightStepsAreOneRound := by
  intro s r hpos hr
  obtain ⟨t, ht, hpos', hd, hct⟩ := runSteps_eight hpos hr
  exact ⟨t, ht, hd, hct, hpos'.trans (runPosition_of_round_end r)⟩

theorem inRun_runPosition_zero : (runPosition 0).InRun := ⟨rfl, nofun⟩

theorem stepsLeft_runPosition_zero : (runPosition 0).stepsLeft = 449 := rfl

/-- Within a run the engine is busy or done. -/
theorem busy_eq_not_done_of_inRun {s : State} (h : s.pos.InRun) : busy s = !done s := by
  cases hp : s.pos.phase with
  | idle => exact absurd hp h.notIdle
  | run | fin | done => simp [busy, done, hp]

/-- Until the last of the 450 steps of a run the engine is busy (R153). -/
theorem StartsRun.busy_before_end {s : State} {p : Block} {k : TweakeyBlock} (h : StartsRun s p k)
    {n : Nat} (h1 : 1 ≤ n) (hn : n ≤ 449) :
    ∃ t, runSteps n s = .next t ∧ busy t = true ∧ done t = false := by
  obtain ⟨m, rfl⟩ : ∃ m, n = 1 + m := ⟨n - 1, by omega⟩
  obtain ⟨t, ht, hpos, -⟩ := h.load
  have hleft : t.pos.stepsLeft = 449 := hpos ▸ stepsLeft_runPosition_zero
  obtain ⟨t', ht', hrun, hleft'⟩ := runSteps_stepsLeft (hpos ▸ inRun_runPosition_zero) m
    (by omega) (h.noReset.after ht (by omega) (by omega))
  have hdone : done t' = false := by
    rw [done_eq_of_inRun hrun, decide_eq_false_iff_not]
    omega
  exact ⟨t', runSteps_trans rfl ht ht', by rw [busy_eq_not_done_of_inRun hrun, hdone]; rfl, hdone⟩

/-- Settles O41: `LOAD`, 56 rounds and `FIN`, then the wait in `DONE`. -/
theorem runDeliversCiphertext : Obligations.RunDeliversCiphertext := by
  refine fun s p k h => ⟨fun n => h.busy_before_end, fun n hquiet => ?_⟩
  obtain ⟨t, ht, hpos, -, hct⟩ := h.completes
  have hquiet' : ∀ j, j < n → (inputsAfter j t).rst = false ∧ (inputsAfter j t).start = false := by
    intro j hj
    rw [runSteps_host 450 ht]
    exact hquiet _ (by omega) (by omega)
  obtain ⟨t', ht', -, hct', hpos'⟩ := runSteps_wait n (by rw [hpos]; rfl) hquiet'
  have hphase : t'.pos.phase = .done := by rw [hpos', hpos]
  have hdone := (done_eq_true_iff t').mpr hphase
  have hcipher := hct'.trans hct
  exact ⟨t', runSteps_trans rfl ht ht', hphase, hdone, hcipher,
    by rw [ctOut_of_done hdone, hcipher]⟩

end Sys2Proof.Machine
end

section
/-! PROOFS. The engine with one round per clock (42_driver.md R157). -/

namespace Sys2Proof.Machine

/-- The fused engine after `n` rounds of a run that loaded `d`. -/
structure FusedAfterRounds (d : Datapath) (n : Nat) (f : FusedState) : Prop where
  le : n ≤ 56
  datapath : f.d = rounds n le d
  phase : f.phase = if n < 56 then .run else .fin
  rnd : n < 56 → f.rnd.val = n

/-- The first clock of a run loads the datapath (R143, R157). -/
theorem fusedClock_load {i : Inputs} {f : FusedState} (hr : i.rst = false) (hs : i.start = true)
    (hw : waiting f.phase = true) :
    FusedAfterRounds (loaded i.ptIn i.tkIn) 0 (fusedClock i f) := by
  have h : fusedClock i f = { f with d := loaded i.ptIn i.tkIn, phase := .run, rnd := 0 } := by
    cases hp : f.phase with
    | idle | done => simp [fusedClock, hr, hs, hp]
    | run | fin => simp [hp, waiting] at hw
  rw [h]
  exact ⟨by omega, rfl, rfl, fun _ => rfl⟩

/-- A clock of the rounds does the next round (R157). -/
theorem FusedAfterRounds.clock {d : Datapath} {n : Nat} {f : FusedState} {i : Inputs}
    (h : FusedAfterRounds d n f) (hn : n < 56) (hr : i.rst = false) :
    FusedAfterRounds d (n + 1) (fusedClock i f) := by
  obtain ⟨hle, hd, hphase, hrnd⟩ := h
  have hphase' : f.phase = .run := hphase.trans (if_pos hn)
  obtain rfl : f.rnd.val = n := hrnd hn
  have hd' : roundFunction f.rnd f.d = rounds (f.rnd.val + 1) hn d := by rw [rounds_succ, ← hd]
  by_cases hlast : f.rnd.val + 1 < 56
  · simp only [fusedClock, hr, hphase', dif_pos hlast]
    exact ⟨hn, hd', (if_pos hlast).symm, fun _ => rfl⟩
  · simp only [fusedClock, hr, hphase', dif_neg hlast]
    exact ⟨hn, hd', (if_neg hlast).symm, fun h => absurd h hlast⟩

/-- Clocks without reset each do one round. -/
theorem FusedAfterRounds.clocks {d : Datapath} {n : Nat} {f : FusedState} {is : List Inputs}
    (h : FusedAfterRounds d n f) (hn : n + is.length ≤ 56) (hr : ∀ j ∈ is, j.rst = false) :
    FusedAfterRounds d (n + is.length) (fusedRun is f) := by
  induction is generalizing n f with
  | nil => exact h
  | cons i is ih =>
    rw [List.length_cons] at hn ⊢
    obtain ⟨hi, his⟩ := List.forall_mem_cons.mp hr
    have hrest := ih (h.clock (i := i) (by omega) hi) (by omega) his
    rwa [Nat.add_right_comm] at hrest

/-- The engine does not wait before the read-out. -/
theorem FusedAfterRounds.not_waiting {d : Datapath} {n : Nat} {f : FusedState}
    (h : FusedAfterRounds d n f) : waiting f.phase = false := by
  rw [h.phase]
  split_ifs <;> rfl

/-- The clock after the rounds is the read-out (R146, R157). -/
theorem FusedAfterRounds.readOut {d : Datapath} {f : FusedState} {i : Inputs}
    (h : FusedAfterRounds d 56 f) (hr : i.rst = false) :
    (fusedClock i f).phase = .done ∧
      (fusedClock i f).ct = (rounds 56 (Nat.le_refl 56) d).is := by
  have hphase : f.phase = .fin := h.phase
  simp only [fusedClock, hr, hphase, h.datapath]
  exact ⟨rfl, rfl⟩

theorem fusedRun_append (is js : List Inputs) (f : FusedState) :
    fusedRun (is ++ js) f = fusedRun js (fusedRun is f) := by
  induction is generalizing f with
  | nil => rfl
  | cons i is ih => exact ih _

/-- Settles O48: one clock for `LOAD`, one for each round, and one for the read-out. -/
theorem fusedEngineDeliversCiphertext : Obligations.FusedEngineDeliversCiphertext := by
  intro f i is hw hr hs hlen hrs
  have hrounds : ∀ n ≤ 56,
      FusedAfterRounds (loaded i.ptIn i.tkIn) n (fusedRun (i :: is.take n) f) := by
    intro n hn
    have htake : (is.take n).length = n := List.length_take_of_le (by omega)
    have h := (fusedClock_load hr hs hw).clocks (is := is.take n) (by omega)
      fun j hj => hrs j (List.mem_of_mem_take hj)
    rwa [htake, Nat.zero_add] at h
  have hlast : is = is.take 56 ++ [is[56]] := by
    rw [← List.take_succ_eq_append_getElem, List.take_of_length_le (by omega)]
  have hend : fusedRun (i :: is) f = fusedClock is[56] (fusedRun (i :: is.take 56) f) := by
    conv_lhs => rw [hlast]
    exact fusedRun_append (i :: is.take 56) [is[56]] f
  obtain ⟨hphase, hct⟩ :=
    (hrounds 56 le_rfl).readOut (hrs is[56] (List.getElem_mem _))
  rw [hend]
  exact ⟨hphase, hct.trans (encrypt_eq _ _).symm, fun n hn => (hrounds n (by omega)).not_waiting⟩

end Sys2Proof.Machine
end

section
/-! PROOFS. Events and refusals: the precedence of `rst` and `start`, and the one micro-operation that does not
always complete (60_exceptions.md R170, R172, R175). -/

namespace Sys2Proof.Machine

/-- Outside the waiting phases `start` does not choose what is issued (R84, R175). -/
theorem issuedCode_start_congr {p : Position} (hw : waiting p.phase = false) (start start' : Bool) :
    issuedCode p start = issuedCode p start' := by
  cases hp : p.phase with
  | idle | done => simp [hp, waiting] at hw
  | run => rw [issuedCode_of_run hp, issuedCode_of_run hp]
  | fin => simp only [issuedCode, hp]

/-- The host's drive of the ports leaves the registers as they are. -/
theorem drive_sameRegisters (s : State) : SameRegisters (drive s) s :=
  ⟨datapath_drive s, drive_ct s, drive_pos s⟩

/-- Settles O7: by the kind of step; in `RUN` and `FIN` what is issued with `start = 0` is what is issued. -/
theorem eventPrecedence : Obligations.EventPrecedence := by
  refine ⟨fun s hr => ⟨_, step_reset hr, drive_sameRegisters _⟩,
    fun s hr hw hs => ⟨_, _, exec_load s, (StepTo.load hr hw hs).step_eq, drive_sameRegisters _⟩,
    fun s t u p hr hw hu he hp => ?_,
    fun s hr hw hs => ⟨_, (StepTo.wait hr hw hs).step_eq, drive_sameRegisters s⟩⟩
  have hissued : decode (issuedCode s.pos s.inputs.start) = .ok u := by
    rwa [issuedCode_start_congr hw s.inputs.start false]
  exact ⟨_, (step_run hr hissued).trans (runOp_next he hp), drive_sameRegisters _⟩

/-- Settles O11: `AC` is issued at step 1 of `RUN`, and its refusal is the step's. -/
theorem addConstantsRefusedBeyondRound55 : Obligations.AddConstantsRefusedBeyondRound55 := by
  refine ⟨fun s => exec_ac_of_ge, fun s hr hp hk hge => ?_⟩
  have hissued : decode (issuedCode s.pos s.inputs.start) = .ok .ac :=
    (issuedAtStep_ac.2 _ _).mpr ⟨hp, hk⟩
  rw [step_run hr hissued, runOp_refused (exec_ac_of_ge hge)]

/-- Settles O45: the machine has no fault, and `AC` beyond round 55 is the only refusal of `exec`. -/
theorem everyMicroOperationCompletes : Obligations.EveryMicroOperationCompletes := by
  refine ⟨fun _ _ => nofun, fun u s hac => ?_⟩
  obtain hnext | ⟨rfl, hge⟩ := exec_next_or u s
  · exact hnext
  · exact absurd (hac rfl) (Nat.not_le.mpr hge)

end Sys2Proof.Machine
end

section
/-! PROOFS. A held reset (70_reset_and_hazards.md R200, R201). -/

namespace Sys2Proof.Machine

/-- What the host drives after a reset step is what it would have driven anyway. -/
theorem inputsAfter_drive_applyReset (k : Nat) (s : State) :
    inputsAfter k (drive (applyReset s)) = inputsAfter (k + 1) s :=
  inputsAfter_congr (k + 1) (applyReset_inputs s) (applyReset_schedule s)

/-- Resetting again after a reset step gives the registers of the first reset. -/
theorem applyReset_drive_applyReset_sameRegisters (s : State) :
    SameRegisters (applyReset (drive (applyReset s))) (applyReset s) := by
  simp [SameRegisters, datapath]

/-- A reset held for one step or more leaves the registers one reset leaves. -/
theorem runSteps_reset (n : Nat) {s : State} (h : ∀ k, k < n + 1 → (inputsAfter k s).rst = true) :
    ∃ t, runSteps (n + 1) s = .next t ∧ SameRegisters t (applyReset s) := by
  induction n generalizing s with
  | zero => exact ⟨_, runSteps_succ_of_next 0 (step_reset (h 0 Nat.one_pos)), drive_sameRegisters _⟩
  | succ n ih =>
    have hheld : ∀ k, k < n + 1 → (inputsAfter k (drive (applyReset s))).rst = true := fun k hk => by
      rw [inputsAfter_drive_applyReset]
      exact h (k + 1) (Nat.succ_lt_succ hk)
    obtain ⟨t, ht, hd, hct, hpos⟩ := ih hheld
    obtain ⟨hd', hct', hpos'⟩ := applyReset_drive_applyReset_sameRegisters s
    have hrun := (runSteps_succ_of_next (n + 1) (step_reset (h 0 (Nat.succ_pos _)))).trans ht
    exact ⟨t, hrun, hd.trans hd', hct.trans hct', hpos.trans hpos'⟩

/-- Settles O10: a reset held for any number of steps leaves what one reset leaves. -/
theorem resetHeldClearsPositionOnly : Obligations.ResetHeldClearsPositionOnly := by
  intro s n h
  obtain ⟨t, ht, hd, hct, hpos⟩ := runSteps_reset n h
  exact ⟨t, ht, hpos, hd, hct⟩

end Sys2Proof.Machine
end
